-- ==== Sys2Proof/Word.lean ====
section
/-! DEFINITION. The value types of the block (spec 00_scope.md R9, R10; 30_encoding.md R71). -/

namespace Sys2Proof

/-- A byte (R9). -/
abbrev Byte := BitVec 8

/-- The pins at which the host's fixed names stand: natural numbers, as programs spell them (`p0`, R80). R7's parameter
`PinId` itself is the argument `Pin` of the model's types and operations, any type with decidable equality; `PinId` is
only that argument's default (log 6). -/
abbrev PinId := Nat

/-- A line level (R100): `true` is 1 (high), `false` is 0 (low). -/
abbrev Level := Bool

/-- A humidity or temperature value, an exact multiple of 1/1000, held as the integer number of thousandths (R10). -/
abbrev Milli := Int

/-- `bits[hi:lo](v)` of R9. -/
def bits (hi lo v : Nat) : Nat := v / 2 ^ lo % 2 ^ (hi - lo + 1)

end Sys2Proof
end

