-- ==== Sys2Proof/Machine/Constants.lean ====
section
/-! DEFINITION. The numbers of the spec that its R8 asks to be held once each: the protocol constants (00_scope.md R6),
the factors of the DHT decode (41_dht_sampler.md R129, R133 to R135), the DS1302's command bytes and bit values
(20_memory.md R52, R53; log 15), and the operand ranges (30_encoding.md R71). The bounds and moduli of the fields
(43_rtc_fields.md R190) stand in the field table of Machine/Convert.lean, the opcodes (R72) in `HostOp.opcode`
(Decode.lean). The document's literals are unaudited (log 25). -/

namespace Sys2Proof.Config

/-! ### Protocol constants (R6) -/

/-- `T_START_LOW_MS`. -/
def startLowMs : Nat := 18

/-- `T_RELEASE_US`. -/
def releaseUs : Nat := 40

/-- `T_BIT_SAMPLE_US`. -/
def bitSampleUs : Nat := 28

/-- `N_BITS`: the width of `FRAME` (10_state.md R27). -/
abbrev nBits : Nat := 40

/-- `N_BYTES`: the bytes that a frame packs into (41_dht_sampler.md R128). -/
def nBytes : Nat := 5

/-- `RAM_SLOTS`: the DS1302's general-purpose RAM bytes. -/
def ramSlots : Nat := 31

/-- `YEAR_BASE`. -/
def yearBase : Nat := 2000

/-- `CLOCK_BITS`: the width of a clock reading (40_port_primitives.md R106). -/
abbrev clockBits : Nat := 32

/-! ### Checksum, decode and unit factors -/

/-- The number of values of a byte (R9): the limit of a RAM data byte (R71), the weight of a high byte (R134). -/
def byteValues : Nat := 256

/-- The modulus of the checksum (R129). -/
def checksumModulus : Nat := 256

/-- The bit of `B2` that is the DHT22 temperature's sign; the bits below it are the magnitude's (R134). -/
def signBit : Nat := 7

/-- The DHT11's fraction bytes count 1 / 100 (R133). -/
def dht11Divisor : Nat := 100

/-- The DHT22's values count 1 / 10 (R134). -/
def dht22Divisor : Nat := 10

/-- The numerator of the Fahrenheit factor 9 / 5 (R135). -/
def fahrenheitNum : Nat := 9

/-- The denominator of the Fahrenheit factor 9 / 5 (R135). -/
def fahrenheitDen : Nat := 5

/-- The Fahrenheit offset (R135). -/
def fahrenheitOffset : Nat := 32

/-! ### Write commands of the DS1302 map (R52) -/

/-- `SEC`. -/
def secCommand : Byte := 0x80#8

/-- `MIN`. -/
def minCommand : Byte := 0x82#8

/-- `HOUR`. -/
def hourCommand : Byte := 0x84#8

/-- `DATE`. -/
def dateCommand : Byte := 0x86#8

/-- `MONTH`. -/
def monthCommand : Byte := 0x88#8

/-- `WDAY`. -/
def wdayCommand : Byte := 0x8A#8

/-- `YEAR`. -/
def yearCommand : Byte := 0x8C#8

/-- `WP`, the write-protect register. -/
def wpCommand : Byte := 0x8E#8

/-- The first RAM byte; byte i has the command `0xC0 + 2·i`. -/
def ramCommand : Byte := 0xC0#8

/-! ### Values of device registers (R53) -/

/-- `WP_CLEAR`. -/
def wpClear : Byte := 0x00#8

/-- `WP_SET`. -/
def wpSet : Byte := 0x80#8

/-- `CH_MASK`, the clock-halt bit of the seconds register. -/
def chMask : Byte := 0x80#8

/-! ### Operand ranges (R71) -/

/-- A field value of a setter lies below this. -/
def fieldValueLimit : Nat := 2 ^ 32


end Sys2Proof.Config

namespace Sys2Proof

/-- `FRAME` (10_state.md R27). -/
abbrev Frame := BitVec Config.nBits

/-- A reading of the platform's clock (40_port_primitives.md R106). -/
abbrev Clock := BitVec Config.clockBits

end Sys2Proof
end

