-- ==== Sys2Proof/Syntax.lean ====
section
/-! DEFINITION. The instructions: the 26 host operations (30_encoding.md R70, R72) and the 18 wire commands
(20_memory.md R52, 30_encoding.md R74), one constructor per row of the opcode table, and the codes that spell them. -/

namespace Sys2Proof

/-- The kinds of operand: a pin, or a number (R71). -/
inductive OperandKind where
  | pin
  | num
  deriving DecidableEq, Repr

/-- A typed operand of a host operation (R70, R71). `Pin` is R7's parameter `PinId`. -/
inductive Operand (Pin : Type) where
  | pin (p : Pin)
  | num (n : Nat)
  deriving DecidableEq, Repr

/-- The kind of an operand. -/
def Operand.kind {Pin : Type} (x : Operand Pin) : OperandKind :=
  match x with
  | .pin _ => .pin
  | .num _ => .num

/-- A host operation as the host issues it (R70): the opcode byte and the record of its operands, in the order of R72's
operand column. A number may lie outside its operand's type; R71 then refuses it. -/
structure Request (Pin : Type) where
  op   : Byte
  args : List (Operand Pin)
  deriving DecidableEq, Repr

/-- What spells an instruction: a host request (R70), or the wire code of an RTC transaction (R74), whose data byte
the engine sends in a write and the peer sends in a read. -/
inductive Code (Pin : Type) where
  | host (r : Request Pin)
  | wireWrite (cmd dat : Byte)
  | wireRead (cmd : Byte)
  deriving DecidableEq, Repr

/-- One constructor per row of spec/opcode_table.json. Operands are R71's: pins, and numbers as naturals. -/
inductive Instr : (Pin : Type := PinId) → Type where
  | dhtQuery {Pin : Type} (pin : Pin) (var pull diag : Nat) : Instr Pin
  | dhtUnit {Pin : Type} (u : Nat) : Instr Pin
  | dhtRdh {Pin : Type} : Instr Pin
  | dhtRdt {Pin : Type} : Instr Pin
  | dhtRdcs {Pin : Type} : Instr Pin
  | dhtRdsr {Pin : Type} : Instr Pin
  | rtcBind {Pin : Type} (clk dio ce : Pin) : Instr Pin
  | rtcGetsec {Pin : Type} : Instr Pin
  | rtcGetmin {Pin : Type} : Instr Pin
  | rtcGethour {Pin : Type} : Instr Pin
  | rtcGetday {Pin : Type} : Instr Pin
  | rtcGetmonth {Pin : Type} : Instr Pin
  | rtcGetwday {Pin : Type} : Instr Pin
  | rtcGetyear {Pin : Type} : Instr Pin
  | rtcSetsec {Pin : Type} (v : Nat) : Instr Pin
  | rtcSetmin {Pin : Type} (v : Nat) : Instr Pin
  | rtcSethour {Pin : Type} (v : Nat) : Instr Pin
  | rtcSetday {Pin : Type} (v : Nat) : Instr Pin
  | rtcSetmonth {Pin : Type} (v : Nat) : Instr Pin
  | rtcSetwday {Pin : Type} (v : Nat) : Instr Pin
  | rtcSetyear {Pin : Type} (v : Nat) : Instr Pin
  | rtcSetdt {Pin : Type} (y mo dd wd hh mi ss : Nat) : Instr Pin
  | rtcStart {Pin : Type} : Instr Pin
  | rtcPause {Pin : Type} : Instr Pin
  | rtcRdram {Pin : Type} (idx : Nat) : Instr Pin
  | rtcWrram {Pin : Type} (idx d : Nat) : Instr Pin
  | ds1302WriteSec {Pin : Type} (d : Byte) : Instr Pin
  | ds1302ReadSec {Pin : Type} : Instr Pin
  | ds1302WriteMin {Pin : Type} (d : Byte) : Instr Pin
  | ds1302ReadMin {Pin : Type} : Instr Pin
  | ds1302WriteHour {Pin : Type} (d : Byte) : Instr Pin
  | ds1302ReadHour {Pin : Type} : Instr Pin
  | ds1302WriteDate {Pin : Type} (d : Byte) : Instr Pin
  | ds1302ReadDate {Pin : Type} : Instr Pin
  | ds1302WriteMonth {Pin : Type} (d : Byte) : Instr Pin
  | ds1302ReadMonth {Pin : Type} : Instr Pin
  | ds1302WriteWday {Pin : Type} (d : Byte) : Instr Pin
  | ds1302ReadWday {Pin : Type} : Instr Pin
  | ds1302WriteYear {Pin : Type} (d : Byte) : Instr Pin
  | ds1302ReadYear {Pin : Type} : Instr Pin
  | ds1302WriteWp {Pin : Type} (d : Byte) : Instr Pin
  | ds1302ReadWp {Pin : Type} : Instr Pin
  | ds1302WriteRam {Pin : Type} (idx : Nat) (d : Byte) : Instr Pin
  | ds1302ReadRam {Pin : Type} (idx : Nat) : Instr Pin
  deriving DecidableEq, Repr

end Sys2Proof
end

