-- ==== Sys2Proof/Machine/Event.lean ====
section
/-! DEFINITION. What crosses the block's ports and what the event history records: port events (40_port_primitives.md
R101 to R107), statuses, readings and diagnostic records (60_exceptions.md R230, 41_dht_sampler.md R137, R138),
results, refusals, faults (60_exceptions.md R235, R236) and the entries of the history (R110). -/

namespace Sys2Proof.Machine

/-- The two engines (R1); a tag of the history's entries (R110). -/
inductive Engine where
  | dht
  | rtc
  deriving DecidableEq, Repr

/-- The statuses of `dht.query` (R230). -/
inductive Status where
  | ok
  | noResponse
  | checksumMismatch
  | timeout
  deriving DecidableEq, Repr

/-- The sensor reading that `dht.query` returns with its status (10_state.md R37, R137). -/
structure Reading where
  hum    : Option Milli
  temp   : Option Milli
  csv    : Bool
  srsp   : Bool
  status : Status
  deriving DecidableEq, Repr

/-- The diagnostic record (R138). -/
structure DiagRecord where
  status  : Status
  elapsed : Option Clock
  csv     : Bool
  hum     : Option Milli
  temp    : Option Milli
  deriving DecidableEq, Repr

/-- A port event (R101 to R107). `release p up` is `Release(p, c)` with `up` for `c` = 1. -/
inductive Event (Pin : Type) where
  | drive (p : Pin) (v : Level)
  | release (p : Pin) (up : Bool)
  | sample (p : Pin) (v : Level)
  | delayMs (n : Nat)
  | delayUs (n : Nat)
  | now (t : Clock)
  | emit (r : DiagRecord)
  deriving DecidableEq, Repr

/-- What an operation hands to the host when it completes (R72's returns column, R113). -/
inductive Result where
  /-- Nothing is returned. -/
  | nothing
  /-- The reading and status of `dht.query`. -/
  | reading (r : Reading)
  /-- The value of `HUM` or `TEMP`. -/
  | value (m : Milli)
  /-- The value of `CSV` or `SRSP`. -/
  | flag (b : Bool)
  /-- A field value or a RAM byte. -/
  | number (n : Nat)
  deriving DecidableEq, Repr

/-- The reasons of R236, in the order in which they are decided (R237). A refusal is recorded, changes nothing else,
and the run goes on (log 1). -/
inductive OpRefusal where
  | badOpcode
  | operand
  | ramIndex
  | unbound
  | pinDistinct
  | pinShared
  | busy
  deriving DecidableEq, Repr

/-- The one fault of R235. It is recorded and the run goes on (log 1). -/
inductive OpFault where
  | readUnset
  deriving DecidableEq, Repr

/-- An entry of the event history (R110; `reset` R260). -/
inductive Entry (Pin : Type) where
  | issue (r : Request Pin)
  | port (e : Engine) (ev : Event Pin)
  | done (e : Engine) (r : Result)
  | refused (r : OpRefusal)
  | faulted (f : OpFault)
  | reset
  deriving DecidableEq, Repr

/-- The code of a status (R230). -/
def Status.code (s : Status) : Nat :=
  match s with
  | .ok => 0
  | .noResponse => 1
  | .checksumMismatch => 2
  | .timeout => 3

end Sys2Proof.Machine
end

