-- ==== Sys2Proof/Config.lean ====
section
/-! DEFINITION. The parameters that the spec leaves open and the free values, none of which a proof can see
(00_scope.md R7, 40_port_primitives.md R103, R106, 20_memory.md R62; log 8, log 9, log 16). The numbers that the spec
fixes stand in Machine/Constants.lean. -/

namespace Sys2Proof.Config

/-- The text of a diagnostic line: the parameter `diagText` of R7, left open (D13; log 8). -/
opaque diagText : Machine.DiagRecord → String

/-- `RTC_TIMING_OK` of R7, left open (D28; log 8): a predicate on the history that a claim may take as a premise. -/
opaque rtcTimingOk {Pin : Type} : List (Machine.Entry Pin) → Prop

/-- The n-th free line level: the oracle's answer to a `Sample` for which no answer was given (R103, R109; log 9). -/
opaque freeLevel : Nat → Level

/-- The n-th free clock reading: the oracle's answer to a `Now` for which no answer was given (R106; log 9). -/
opaque freeClock : Nat → Clock

/-- What the DS1302 holds in the register of write command `w` before anything was written to it (R62: a draw;
log 16). Used by the reference peer alone. -/
opaque freeDeviceByte : Nat → Byte

end Sys2Proof.Config
end

