-- ==== Sys2Proof/Machine/State.lean ====
section
/-! DEFINITION. The state of the block (10_state.md R20 to R39), with the event history (40_port_primitives.md R110),
and the model's own input fields: the oracle's answers, the host's requests, the turns and `POLL_BOUND`; the machine
right after reset (70_reset_and_hazards.md R260); the reasons a step can stop. -/

namespace Sys2Proof.Machine

/-- Reasons for a step of the model to stop. The spec's own fault (60_exceptions.md R235) is not one of them: it is
recorded in the history and the run goes on (log 1). -/
inductive Fault where
  /-- Raised by the RTC sequencer when `BUSY` is 1 and `UPC` names no port event, which no run from reset reaches
  (R24: `UPC` ranges over the labels of one micro-program). Safe: the machine stops (log 18). -/
  | noPrimitive
  deriving DecidableEq, Repr

/-- Reasons for the model to give a step no meaning. The spec's own refusals (60_exceptions.md R236) are not among
them: they are recorded in the history and the run goes on (log 1). -/
inductive Refusal where
  /-- Raised by exec's arm for an instruction without a meaning, by name. No arm does. Safe. -/
  | notModelled (mnemonic : String)
  /-- Raised by the RTC sequencer at a transaction whose command byte is not in the map of 20_memory.md R52, which no
  run from reset reaches (30_encoding.md R83: no other byte can be sent). Safe: the machine stops (log 18). -/
  | unmappedCommand (cmd : Byte)
  deriving DecidableEq, Repr

/-- Sensor variant (30_encoding.md R71: `VAR` 0 and 1). -/
inductive Variant where
  | dht11
  | dht22
  deriving DecidableEq, Repr

/-- Unit preference (R25: `UNIT` 0 and 1). -/
inductive TempUnit where
  | celsius
  | fahrenheit
  deriving DecidableEq, Repr

/-- `MODE[p]` (R31): driving low, driving high, released as an input. -/
inductive PinMode where
  | out0
  | out1
  | input
  deriving DecidableEq, Repr

/-- `PULLM[p]` (R31). -/
inductive PullMode where
  | off
  | up
  deriving DecidableEq, Repr

/-- The labels of `dht.query`'s micro-program (41_dht_sampler.md R120), each named for the port event that stands
there. `n` counts the samples that the wait has taken so far (40_port_primitives.md R108), `k` is the bit index of
R126; `status` and `elapsed` are the local names of the finish (R138). -/
inductive DhtLabel where
  | readStart
  | driveLow
  | holdLow
  | releaseLine
  | holdRelease
  | sampleResponse
  | presenceLow (n : Nat)
  | presenceHigh (n : Nat)
  | bitHigh (k n : Nat)
  | bitLow (k n : Nat)
  | bitDelay (k : Nat)
  | bitSample (k : Nat)
  | readEnd
  | emit (status : Status) (elapsed : Option Clock)
  deriving DecidableEq, Repr

/-- The DHT engine's registers (R21 to R28) and sequencer (R24). `frame` holds `FRAME[k]` in its bit k. -/
structure DhtEngine (Pin : Type) where
  hum    : Option Milli
  temp   : Option Milli
  csv    : Bool
  srsp   : Bool
  unit   : TempUnit
  qPin   : Pin
  qVar   : Variant
  qPull  : Bool
  qDiag  : Bool
  frame  : Frame
  bitcnt : Nat
  t0     : Clock
  t1     : Clock
  busy   : Bool
  upc    : DhtLabel
  deriving DecidableEq, Repr

/-- The data byte of a write transaction: a constant of the micro-program, or the byte `raw` that the last read
returned with bits cleared or set (43_rtc_fields.md R206, R207). -/
inductive ByteSource where
  | imm (b : Byte)
  | rawAnd (mask : Byte)
  | rawOr (mask : Byte)
  deriving DecidableEq, Repr

/-- The assignments that follow `SHCNT <- i + 1` in the step of a falling clock edge (R111; R162, R163). -/
inductive AfterPulse where
  /-- Nothing more. -/
  | nothing
  /-- The next byte is shifted out: `SR <- b; SHCNT <- 0`. -/
  | load (b : Byte)
  /-- The byte is in: `d <- SR`. -/
  | take
  deriving DecidableEq, Repr

/-- A port event inside an RTC transaction or of `rtc.bind`, with the assignments that belong to its step (R111). -/
inductive RtcPrim (Pin : Type) where
  /-- `Drive(p, v)`. -/
  | drive (p : Pin) (v : Level)
  /-- `Drive(dio, SR[i])` (42_rtc_transactions.md R162). -/
  | driveBit (dio : Pin) (i : Nat)
  /-- `Drive(clk, 0)`, then `SHCNT <- n`, then `after` (R162, R163). -/
  | clockLow (clk : Pin) (n : Nat) (after : AfterPulse)
  /-- `Release(dio, 0)`, then `SR <- 0; SHCNT <- 0` (R165, R163). -/
  | releaseDio (dio : Pin)
  /-- `s <- Sample(dio); SR <- SR + s * 2^i` (R163). -/
  | sampleBit (dio : Pin) (i : Nat)
  deriving DecidableEq, Repr

/-- A step of an RTC micro-program. The first event of a transaction, `Drive(CE, 1)`, is where the sequencer fetches
the transaction's wire command (log 3). -/
inductive RtcMicro (Pin : Type) where
  /-- A write transaction (R166). -/
  | txnWrite (cmd : Byte) (src : ByteSource)
  /-- A read transaction (R165). -/
  | txnRead (cmd : Byte)
  /-- Any other port event. -/
  | prim (p : RtcPrim Pin)
  deriving DecidableEq, Repr

/-- The seven calendar and time fields (43_rtc_fields.md R190). -/
inductive Field where
  | second
  | minute
  | hour
  | day
  | month
  | weekday
  | year
  deriving DecidableEq, Repr

/-- What the running RTC operation returns: the `return` of its micro-program (R191 to R209). -/
inductive RtcReturn where
  | nothing
  | field (f : Field)
  | byte
  deriving DecidableEq, Repr

/-- The RTC engine's registers (R29, R30) and sequencer (R24). `upc` is what is left of the micro-program, the next
port event first (log 4); `raw` and `ret` are its local names (log 20). -/
structure RtcEngine (Pin : Type) where
  clkPin : Option Pin
  dioPin : Option Pin
  cePin  : Option Pin
  sr     : Byte
  shcnt  : Nat
  raw    : Byte
  ret    : RtcReturn
  busy   : Bool
  upc    : List (RtcMicro Pin)
  deriving DecidableEq, Repr

/-- The oracle (40_port_primitives.md R109; log 9): the answers it will give next to `Sample` and to `Now`, and how
many answers it has given. Past the end of a list the answers are free values. -/
structure Oracle where
  levels : List Level
  clocks : List Clock
  drawn  : Nat
  deriving DecidableEq, Repr

/-- Who makes the next move (00_scope.md R13, 70_reset_and_hazards.md R260; log 10). -/
inductive Turn where
  | host
  | dht
  | rtc
  | reset
  deriving DecidableEq, Repr

/-- The state: the block's registers and pin drivers (R20), the history (R110), and the model's own inputs. `modes`
and `pulls` list the pins whose `MODE` is not `In` and whose `PULLM` is not `None`, each pin once (log 17). `Pin` is the
parameter `PinId` of R7, any type with decidable equality; at its default the state is the one of the host's machine
(log 6). -/
structure State (Pin : Type := PinId) where
  dht       : DhtEngine Pin
  rtc       : RtcEngine Pin
  modes     : List (Pin × PinMode)
  pulls     : List (Pin × PullMode)
  hist      : List (Entry Pin)
  oracle    : Oracle
  pending   : List (Request Pin)
  turns     : List Turn
  pollBound : Option Nat
  deriving DecidableEq, Repr

variable {Pin : Type}

/-- The DHT engine after reset, its pin latch holding `pin` (R260; log 11 for `UPC`, `T0`, `T1` and the latches). -/
def DhtEngine.reset (pin : Pin) : DhtEngine Pin where
  hum := none
  temp := none
  csv := false
  srsp := false
  unit := .celsius
  qPin := pin
  qVar := .dht11
  qPull := false
  qDiag := false
  frame := 0#Config.nBits
  bitcnt := 0
  t0 := 0#Config.clockBits
  t1 := 0#Config.clockBits
  busy := false
  upc := .readStart

/-- The RTC engine after reset (R260; log 11 for `UPC` and the local names). -/
def RtcEngine.reset : RtcEngine Pin where
  clkPin := none
  dioPin := none
  cePin := none
  sr := 0#8
  shcnt := 0
  raw := 0#8
  ret := .nothing
  busy := false
  upc := []

/-- The machine right after reset (R260, R261), the pin latch holding `pin`: every register at its reset value, the
reset in the history, nothing given by the oracle, nothing asked by the host, `POLL_BOUND` at its default (R7). -/
def State.resetAt (pin : Pin) : State Pin where
  dht := .reset pin
  rtc := .reset
  modes := []
  pulls := []
  hist := [.reset]
  oracle := ⟨[], [], 0⟩
  pending := []
  turns := []
  pollBound := none

/-- The host's machine right after reset: the pin latch, which R26 leaves unspecified, names pin 0 (log 11). -/
def State.reset : State := .resetAt 0

end Sys2Proof.Machine
end

