-- ==== Sys2Proof/Machine/Convert.lean ====
section
/-! DEFINITION. The conversions: the DHT frame into bytes and values (30_encoding.md R77 to R79, 41_dht_sampler.md R128,
R133 to R135), BCD and clamp (42_rtc_transactions.md R168 to R170), and the field table of 43_rtc_fields.md R190. -/

namespace Sys2Proof.Machine

/-! ### The DHT frame -/

/-- `FRAME[k] <- v` (R126). -/
def setFrameBit (f : Frame) (k : Nat) (v : Bool) : Frame :=
  if v then f ||| BitVec.twoPow Config.nBits k else f &&& ~~~(BitVec.twoPow Config.nBits k)

/-- `B_j`: the sum over i of `FRAME[8·j + i] · 2^(7 - i)` (R77). -/
def frameByte (f : Frame) (j : Nat) : Nat :=
  (List.range 8).foldl (fun acc i => acc + (f.getLsbD (8 * j + i)).toNat * 2 ^ (7 - i)) 0

/-- The `N_BYTES` bytes of a frame, in the order of their packing (R77, R128). -/
def frameBytes (f : Frame) : List Nat := (List.range Config.nBytes).map (frameByte f)

/-- The five bytes of a frame, each under the name that the rules use (R128). -/
structure FrameBytes where
  b0 : Nat
  b1 : Nat
  b2 : Nat
  b3 : Nat
  b4 : Nat
  deriving DecidableEq, Repr

/-- The bytes of a list under their names, the first as `B0`. -/
def FrameBytes.ofList (l : List Nat) : FrameBytes :=
  ⟨l.getD 0 0, l.getD 1 0, l.getD 2 0, l.getD 3 0, l.getD 4 0⟩

/-- `pack(FRAME)` (R128). -/
def pack (f : Frame) : FrameBytes := .ofList (frameBytes f)

/-- `n ÷ d` in thousandths (R10): exact, because each divisor of the rules divides 1000. -/
def milli (n d : Nat) : Milli := 1000 * (n : Int) / (d : Int)

/-- The DHT11 decode, in thousandths: `h = B0 + B1 ÷ 100`, `tc = B2 + B3 ÷ 100` (R133). -/
def decode11 (b : FrameBytes) : Milli × Milli :=
  (milli b.b0 1 + milli b.b1 Config.dht11Divisor, milli b.b2 1 + milli b.b3 Config.dht11Divisor)

/-- `RH` of R78. -/
def rawHumidity (b : FrameBytes) : Nat := b.b0 * Config.byteValues + b.b1

/-- `TM` of R78. -/
def tempMagnitude (b : FrameBytes) : Nat := bits (Config.signBit - 1) 0 b.b2 * Config.byteValues + b.b3

/-- `TS` of R78: the sign bit. -/
def tempNegative (b : FrameBytes) : Bool := bits Config.signBit Config.signBit b.b2 == 1

/-- The DHT22 decode, in thousandths: `h = RH ÷ 10`, `tc` the magnitude `TM ÷ 10`, negated if `TS` is 1 (R134, R79). -/
def decode22 (b : FrameBytes) : Milli × Milli :=
  let magnitude := milli (tempMagnitude b) Config.dht22Divisor
  (milli (rawHumidity b) Config.dht22Divisor, if tempNegative b then -magnitude else magnitude)

/-- The decode of the query's variant: `(h, tc)` (R120). -/
def decodeFrame (v : Variant) (b : FrameBytes) : Milli × Milli :=
  match v with
  | .dht11 => decode11 b
  | .dht22 => decode22 b

/-- The unit step, in thousandths: `tc · 9 ÷ 5 + 32` in Fahrenheit (R135). Every `tc` of the two decodes is a multiple
of 10 thousandths, so the quotient is exact (R10). -/
def applyUnit (u : TempUnit) (tc : Milli) : Milli :=
  match u with
  | .celsius => tc
  | .fahrenheit =>
    tc * (Config.fahrenheitNum : Int) / (Config.fahrenheitDen : Int) + milli Config.fahrenheitOffset 1

/-! ### BCD, clamp and the field table -/

/-- `bcd2dec(b) = b[7:4] · 10 + b[3:0]` (R168). -/
def bcd2dec (b : Byte) : Nat := bits 7 4 b.toNat * 10 + bits 3 0 b.toNat

/-- `dec2bcd(v) = (v / 10) · 16 + v mod 10` (R169). -/
def dec2bcd (v : Nat) : Byte := BitVec.ofNat 8 (v / 10 * 16 + v % 10)

/-- `clamp(lo, hi, n) = max(min(n, hi), lo)` (R170). -/
def clamp (lo hi n : Nat) : Nat := max (min n hi) lo

/-- The write command `w` of a field (R190, R52). -/
def Field.command (f : Field) : Byte :=
  match f with
  | .second => Config.secCommand
  | .minute => Config.minCommand
  | .hour => Config.hourCommand
  | .day => Config.dateCommand
  | .month => Config.monthCommand
  | .weekday => Config.wdayCommand
  | .year => Config.yearCommand

/-- The lower bound of a field's getter; 0 where R190 takes the minimum alone, which is the clamp from 0 (R170). -/
def Field.low (f : Field) : Nat :=
  match f with
  | .second => 0
  | .minute => 0
  | .hour => 0
  | .day => 1
  | .month => 1
  | .weekday => 1
  | .year => 0

/-- The upper bound of a field's getter, for the year of its two digits (R190). -/
def Field.high (f : Field) : Nat :=
  match f with
  | .second => 59
  | .minute => 59
  | .hour => 23
  | .day => 31
  | .month => 12
  | .weekday => 7
  | .year => 99

/-- The modulus of a field's setter (R190). -/
def Field.modulus (f : Field) : Nat :=
  match f with
  | .second => 60
  | .minute => 60
  | .hour => 24
  | .day => 32
  | .month => 13
  | .weekday => 8
  | .year => 100

/-- What a field's getter adds to the clamped value: `YEAR_BASE` for the year (R190). -/
def Field.base (f : Field) : Nat :=
  match f with
  | .second => 0
  | .minute => 0
  | .hour => 0
  | .day => 0
  | .month => 0
  | .weekday => 0
  | .year => Config.yearBase

/-- What a field's getter returns from the decoded byte (R190). -/
def Field.fromDevice (f : Field) (n : Nat) : Nat := clamp f.low f.high n + f.base

/-- The byte that a field's setter stores for the operand `v` (R190). -/
def Field.toDevice (f : Field) (v : Nat) : Byte := dec2bcd (v % f.modulus)

end Sys2Proof.Machine
end

