-- ==== Sys2Proof/Machine/Flags.lean ====
section
/-! DEFINITION. The block's two flags `CSV` and `SRSP` (10_state.md R23, R33) and the statuses decided from them
(60_exceptions.md R230). Only `dht.query` writes them. -/

namespace Sys2Proof.Machine

variable {Pin : Type}

/-- `B4 = (B0 + B1 + B2 + B3) mod 256` (41_dht_sampler.md R129; 90_conflicts.md C6). -/
def checksumOk (b : FrameBytes) : Bool := b.b4 == (b.b0 + b.b1 + b.b2 + b.b3) % Config.checksumModulus

/-- Both flags are cleared at the start of a query (R122). -/
def DhtEngine.clearFlags (d : DhtEngine Pin) : DhtEngine Pin := { d with csv := false, srsp := false }

/-- `x[SRSP] <- 1`: the sensor answered (R124). -/
def DhtEngine.setResponded (d : DhtEngine Pin) : DhtEngine Pin := { d with srsp := true }

/-- `x[CSV] <- ok` (R129). -/
def DhtEngine.setChecksum (d : DhtEngine Pin) (valid : Bool) : DhtEngine Pin := { d with csv := valid }

/-- The status of a full frame (R137). -/
def frameStatus (valid : Bool) : Status := if valid then .ok else .checksumMismatch

end Sys2Proof.Machine
end

