-- ==== Sys2Proof/Machine/Ops.lean ====
section
/-! DEFINITION. The named operations over the state: the setters of its parts, the pin tables, the oracle's draws, the
port primitives of 40_port_primitives.md section 2, and how an operation is refused, faults or completes
(60_exceptions.md R235, R236; 40_port_primitives.md R113). The block takes no trap and has no return from one
(60_exceptions.md R238, R239): recording a refusal and recording a fault stand in their place. -/

namespace Sys2Proof.Machine

variable {Pin : Type}

/-! ### Pin tables: `MODE` and `PULLM` of every pin (10_state.md R31) -/

section
variable {α : Type} [DecidableEq Pin]

/-- The entry of pin `p`; a pin that is not listed has the default `dflt`. -/
def pinGet (dflt : α) (t : List (Pin × α)) (p : Pin) : α :=
  match t with
  | [] => dflt
  | (q, v) :: rest => if q = p then v else pinGet dflt rest p

/-- Take the entries of `p` out. -/
def pinErase (t : List (Pin × α)) (p : Pin) : List (Pin × α) := t.filter fun e => e.1 ≠ p

/-- Write the entry of `p`: its old entry goes out and, unless `v` is the default, the new one comes first. -/
def pinSet [DecidableEq α] (dflt : α) (t : List (Pin × α)) (p : Pin) (v : α) : List (Pin × α) :=
  if v = dflt then pinErase t p else (p, v) :: pinErase t p

end

/-- The form of a pin table: no pin twice, no entry equal to the default (log 17). -/
abbrev PinTable.wf {α : Type} (dflt : α) (t : List (Pin × α)) : Prop :=
  t.Pairwise (fun a b => a.1 ≠ b.1) ∧ ∀ e ∈ t, e.2 ≠ dflt

/-! ### Setters of the parts of the state -/

def State.setDht (s : State Pin) (d : DhtEngine Pin) : State Pin := { s with dht := d }

def State.setRtc (s : State Pin) (r : RtcEngine Pin) : State Pin := { s with rtc := r }

def State.setModes (s : State Pin) (m : List (Pin × PinMode)) : State Pin := { s with modes := m }

def State.setPulls (s : State Pin) (p : List (Pin × PullMode)) : State Pin := { s with pulls := p }

def State.setOracle (s : State Pin) (o : Oracle) : State Pin := { s with oracle := o }

def State.setPending (s : State Pin) (q : List (Request Pin)) : State Pin := { s with pending := q }

def State.setTurns (s : State Pin) (t : List Turn) : State Pin := { s with turns := t }

/-- Append an entry to the history (R110). No operation reads the history. -/
def State.log (s : State Pin) (e : Entry Pin) : State Pin := { s with hist := s.hist ++ [e] }

/-- `MODE[p]` (R31). -/
def State.mode [DecidableEq Pin] (s : State Pin) (p : Pin) : PinMode := pinGet .input s.modes p

/-- `PULLM[p]` (R31). -/
def State.pull [DecidableEq Pin] (s : State Pin) (p : Pin) : PullMode := pinGet .off s.pulls p

/-! ### The oracle's draws (40_port_primitives.md R109; log 9) -/

/-- The level that the draw after `n` more draws of levels answers. -/
def Oracle.level (o : Oracle) (n : Nat) : Level :=
  match o.levels[n]? with
  | some v => v
  | none => Config.freeLevel (o.drawn + n)

/-- The clock reading that the next `Now` answers. -/
def Oracle.clock (o : Oracle) : Clock :=
  match o.clocks with
  | t :: _ => t
  | [] => Config.freeClock o.drawn

/-- The oracle after `n` draws of a level. -/
def Oracle.dropLevels (o : Oracle) (n : Nat) : Oracle := { o with levels := o.levels.drop n, drawn := o.drawn + n }

/-- The oracle after a draw of a clock reading. -/
def Oracle.dropClock (o : Oracle) : Oracle := { o with clocks := o.clocks.drop 1, drawn := o.drawn + 1 }

/-! ### Port primitives (40_port_primitives.md R101 to R107): one event each -/

/-- `MODE` of a pin that is driven to `v` (R101). -/
def driveMode (v : Level) : PinMode := if v then .out1 else .out0

/-- `Drive(p, v)` (R101). -/
def State.drive [DecidableEq Pin] (s : State Pin) (e : Engine) (p : Pin) (v : Level) : State Pin :=
  (s.setModes (pinSet .input s.modes p (driveMode v))).log (.port e (.drive p v))

/-- The pull table after `Release(p, c)`: `c` = 1 configures the pull-up, `c` = 0 leaves it as it is (R102). -/
def releasePulls [DecidableEq Pin] (t : List (Pin × PullMode)) (p : Pin) (up : Bool) : List (Pin × PullMode) :=
  if up then pinSet .off t p .up else t

/-- `Release(p, c)` (R102). -/
def State.release [DecidableEq Pin] (s : State Pin) (e : Engine) (p : Pin) (up : Bool) : State Pin :=
  ((s.setModes (pinSet .input s.modes p .input)).setPulls (releasePulls s.pulls p up)).log (.port e (.release p up))

/-- The level that `Sample` answers next (R103). It is the oracle's, whatever the pin's `MODE` (log 19). -/
def State.nextLevel (s : State Pin) : Level := s.oracle.level 0

/-- The event of `Sample(p)` (R103), whose answer is `s.nextLevel`. -/
def State.sample (s : State Pin) (e : Engine) (p : Pin) : State Pin :=
  (s.setOracle (s.oracle.dropLevels 1)).log (.port e (.sample p s.nextLevel))

/-- `DelayMs(n)` (R104): no state changes. -/
def State.delayMs (s : State Pin) (e : Engine) (n : Nat) : State Pin := s.log (.port e (.delayMs n))

/-- `DelayUs(n)` (R105): no state changes. -/
def State.delayUs (s : State Pin) (e : Engine) (n : Nat) : State Pin := s.log (.port e (.delayUs n))

/-- The reading that `Now` answers next (R106). -/
def State.nextClock (s : State Pin) : Clock := s.oracle.clock

/-- The event of `Now()` (R106), whose answer is `s.nextClock`. -/
def State.now (s : State Pin) (e : Engine) : State Pin :=
  (s.setOracle s.oracle.dropClock).log (.port e (.now s.nextClock))

/-- `Emit(r)` (R107): no state changes. -/
def State.emit (s : State Pin) (e : Engine) (r : DiagRecord) : State Pin := s.log (.port e (.emit r))

/-- The lines that the diagnostic sink has written: `diagText` of the records emitted so far (R107). -/
def State.sinkLines (s : State Pin) : List String :=
  s.hist.filterMap fun e =>
    match e with
    | .port _ (.emit r) => some (Config.diagText r)
    | _ => none

/-! ### How an operation ends (00_scope.md R12) -/

/-- Refuse an operation: the reason is recorded and nothing else changes (R236). -/
def State.refuse (s : State Pin) (r : OpRefusal) : State Pin := s.log (.refused r)

/-- End an operation with a fault: it is recorded, no value is returned (R235). -/
def State.faultOp (s : State Pin) (f : OpFault) : State Pin := s.log (.faulted f)

/-- Complete an operation of engine `e`: the host receives the result (R113). -/
def State.complete (s : State Pin) (e : Engine) (r : Result) : State Pin := s.log (.done e r)

/-- The reset event (70_reset_and_hazards.md R260): every register and pin driver takes its reset value, the reset is
recorded, the history is kept; the pin latch, unspecified by the rule, stays (log 11); the oracle, the host's requests,
the turns and `POLL_BOUND` are outside the block and stay (log 14). -/
def State.resetEvent (s : State Pin) : State Pin :=
  ((((s.setDht (.reset s.dht.qPin)).setRtc .reset).setModes []).setPulls []).log .reset

end Sys2Proof.Machine
end

