-- ==== Sys2Proof/Machine/DhtEngine.lean ====
section
/-! DEFINITION. The DHT engine's sequencer: the micro-program of `dht.query`, one port event a step (41_dht_sampler.md
R120 to R139, 40_port_primitives.md R108, R111). Assignments between two port events belong to the step of the event
before them (R111). -/

namespace Sys2Proof.Machine

variable {Pin : Type}

/-- The engine at the first label of a query: operands latched, flags and `FRAME` and `BITCNT` cleared (R112, R122).
R122 has them cleared before the first port event and R111 names no step for that; that it is the issue step is the
model's choice (DESIGN CHOICE, log 29). -/
def DhtEngine.start (d : DhtEngine Pin) (pin : Pin) (var : Variant) (pull diag : Bool) : DhtEngine Pin :=
  { d.clearFlags with
    qPin := pin, qVar := var, qPull := pull, qDiag := diag,
    frame := 0#Config.nBits, bitcnt := 0, busy := true, upc := .readStart }

/-- The reading that a query returns with `status` (R137; 10_state.md R37). -/
def DhtEngine.reading (d : DhtEngine Pin) (status : Status) : Reading := ⟨d.hum, d.temp, d.csv, d.srsp, status⟩

/-- The record of the diagnostic line (R138). -/
def DhtEngine.diagRecord (d : DhtEngine Pin) (status : Status) (elapsed : Option Clock) : DiagRecord :=
  ⟨status, elapsed, d.csv, d.hum, d.temp⟩

/-- `upc <- l`. -/
def State.dhtGoto (s : State Pin) (l : DhtLabel) : State Pin := s.setDht { s.dht with upc := l }

/-- The query returns (R137): `BUSY` is 0 and the host receives the reading (R113). -/
def State.dhtReturn (s : State Pin) (status : Status) : State Pin :=
  (s.setDht { s.dht with busy := false }).complete .dht (.reading (s.dht.reading status))

/-- `FINISH` of R120: with `DIAG` = 1 the diagnostic event comes first (R138). -/
def State.dhtFinish (s : State Pin) (status : Status) (elapsed : Option Clock) : State Pin :=
  if s.dht.qDiag then s.dhtGoto (.emit status elapsed) else s.dhtReturn status

/-- Whether a wait that has taken `n` samples has reached `POLL_BOUND` (R108). -/
def pollExpired (bound : Option Nat) (n : Nat) : Bool :=
  match bound with
  | none => false
  | some b => decide (b ≤ n)

/-- One sample of `WaitWhile(PIN, v)` (R108), `n` samples having been taken: on another level the wait is done; on the
same level it times out at the bound (R139) or samples again. -/
def State.dhtWait (s : State Pin) (v : Level) (n : Nat) (again : Nat → DhtLabel) (next : DhtLabel) : State Pin :=
  let t := s.sample .dht s.dht.qPin
  if s.nextLevel != v then t.dhtGoto next
  else if pollExpired s.pollBound (n + 1) then t.dhtFinish .timeout none
  else t.dhtGoto (again (n + 1))

/-- `T0 <- Now()` (R122). -/
def State.dhtReadStart (s : State Pin) : State Pin :=
  (s.now .dht).setDht { s.dht with t0 := s.nextClock, upc := .driveLow }

/-- `s <- Sample(PIN)` of the response detection (R124). -/
def State.dhtSampleResponse (s : State Pin) : State Pin :=
  let t := s.sample .dht s.dht.qPin
  if s.nextLevel then t.dhtFinish .noResponse none
  else t.setDht { s.dht.setResponded with upc := .presenceLow 0 }

/-- `FRAME[k] <- Sample(PIN); BITCNT <- k + 1`, and on to the next bit or the end (R126). -/
def State.dhtSampleBit (s : State Pin) (k : Nat) : State Pin :=
  (s.sample .dht s.dht.qPin).setDht
    { s.dht with
      frame := setFrameBit s.dht.frame k s.nextLevel,
      bitcnt := k + 1,
      upc := if k + 1 < Config.nBits then .bitHigh (k + 1) 0 else .readEnd }

/-- The results of a full frame: checksum, decode, unit and publication (R128, R129, R131, R133 to R136), with `T1`
(R127). -/
def DhtEngine.publish (d : DhtEngine Pin) (clock : Clock) : DhtEngine Pin :=
  let b := pack d.frame
  let v := decodeFrame d.qVar b
  { d.setChecksum (checksumOk b) with
    t1 := clock, hum := some v.1, temp := some (applyUnit d.unit v.2) }

/-- `T1 <- Now()` and what follows it up to the finish (R127 to R137). -/
def State.dhtReadEnd (s : State Pin) : State Pin :=
  ((s.now .dht).setDht (s.dht.publish s.nextClock)).dhtFinish
    (frameStatus (checksumOk (pack s.dht.frame))) (some (s.nextClock - s.dht.t0))

/-- One micro-step of the DHT engine: the port event at `UPC` with its assignments (R111, R120). -/
def dhtMicroStep [DecidableEq Pin] (s : State Pin) : State Pin :=
  match s.dht.upc with
  | .readStart => s.dhtReadStart
  | .driveLow => (s.drive .dht s.dht.qPin false).dhtGoto .holdLow
  | .holdLow => (s.delayMs .dht Config.startLowMs).dhtGoto .releaseLine
  | .releaseLine => (s.release .dht s.dht.qPin s.dht.qPull).dhtGoto .holdRelease
  | .holdRelease => (s.delayUs .dht Config.releaseUs).dhtGoto .sampleResponse
  | .sampleResponse => s.dhtSampleResponse
  | .presenceLow n => s.dhtWait false n .presenceLow (.presenceHigh 0)
  | .presenceHigh n => s.dhtWait true n .presenceHigh (.bitHigh 0 0)
  | .bitHigh k n => s.dhtWait true n (.bitHigh k) (.bitLow k 0)
  | .bitLow k n => s.dhtWait false n (.bitLow k) (.bitDelay k)
  | .bitDelay k => (s.delayUs .dht Config.bitSampleUs).dhtGoto (.bitSample k)
  | .bitSample k => s.dhtSampleBit k
  | .readEnd => s.dhtReadEnd
  | .emit status elapsed => (s.emit .dht (s.dht.diagRecord status elapsed)).dhtReturn status

end Sys2Proof.Machine
end

