-- ==== Sys2Proof/WellFormed.lean ====
section
/-! DEFINITION. Which instructions have every operand inside its type (30_encoding.md R71, 43_rtc_fields.md R208,
R209, 42_rtc_transactions.md R161). -/

namespace Sys2Proof

variable {Pin : Type}

/-- An operand of one bit (R71: `VAR`, `PULL`, `DIAG`, `U`). -/
def isBit (n : Nat) : Bool := decide (n < 2)

/-- A field value of a setter (R71: a natural below 2^32). -/
def isFieldValue (n : Nat) : Bool := decide (n < Config.fieldValueLimit)

/-- A RAM slot index (R71: 0 .. 30). -/
def isRamIndex (n : Nat) : Bool := decide (n < Config.ramSlots)

/-- A RAM data byte (R71: 0 .. 255). -/
def isByteValue (n : Nat) : Bool := decide (n < Config.byteValues)

/-- Three pairwise distinct pins (R161). -/
def pinsDistinct [DecidableEq Pin] (a b c : Pin) : Bool := decide (a ≠ b ∧ a ≠ c ∧ b ≠ c)

/-- Every operand lies in its type (R71), and the pins of `rtc.bind` are pairwise distinct (R161). -/
def wellFormed [DecidableEq Pin] (i : Instr Pin) : Bool :=
  match i with
  | .dhtQuery _ var pull diag => isBit var && isBit pull && isBit diag
  | .dhtUnit u => isBit u
  | .dhtRdh => true
  | .dhtRdt => true
  | .dhtRdcs => true
  | .dhtRdsr => true
  | .rtcBind clk dio ce => pinsDistinct clk dio ce
  | .rtcGetsec => true
  | .rtcGetmin => true
  | .rtcGethour => true
  | .rtcGetday => true
  | .rtcGetmonth => true
  | .rtcGetwday => true
  | .rtcGetyear => true
  | .rtcSetsec v => isFieldValue v
  | .rtcSetmin v => isFieldValue v
  | .rtcSethour v => isFieldValue v
  | .rtcSetday v => isFieldValue v
  | .rtcSetmonth v => isFieldValue v
  | .rtcSetwday v => isFieldValue v
  | .rtcSetyear v => isFieldValue v
  | .rtcSetdt y mo dd wd hh mi ss =>
      isFieldValue y && isFieldValue mo && isFieldValue dd && isFieldValue wd && isFieldValue hh && isFieldValue mi &&
        isFieldValue ss
  | .rtcStart => true
  | .rtcPause => true
  | .rtcRdram idx => isRamIndex idx
  | .rtcWrram idx d => isRamIndex idx && isByteValue d
  | .ds1302WriteSec _ => true
  | .ds1302ReadSec => true
  | .ds1302WriteMin _ => true
  | .ds1302ReadMin => true
  | .ds1302WriteHour _ => true
  | .ds1302ReadHour => true
  | .ds1302WriteDate _ => true
  | .ds1302ReadDate => true
  | .ds1302WriteMonth _ => true
  | .ds1302ReadMonth => true
  | .ds1302WriteWday _ => true
  | .ds1302ReadWday => true
  | .ds1302WriteYear _ => true
  | .ds1302ReadYear => true
  | .ds1302WriteWp _ => true
  | .ds1302ReadWp => true
  | .ds1302WriteRam idx _ => isRamIndex idx
  | .ds1302ReadRam idx => isRamIndex idx

/-- `wellFormed` as a proposition. -/
abbrev WellFormed [DecidableEq Pin] (i : Instr Pin) : Prop := wellFormed i = true

end Sys2Proof
end

