-- ==== Sys2Proof/Machine/Operands.lean ====
section
/-! DEFINITION. Operand forms and admission: the checks of 60_exceptions.md R236, each the reason it gives or none,
to be joined in the order of that table (R237), all decided at issue (40_port_primitives.md R114). -/

namespace Sys2Proof.Machine

variable {Pin : Type}

/-- `REF_OPERAND` unless the operands lie in their types (30_encoding.md R71). -/
def checkOperand (legal : Bool) : Option OpRefusal := if legal then none else some .operand

/-- `REF_RAM_INDEX` unless `idx` is in 0..30 (43_rtc_fields.md R208, R209). -/
def checkRamIndex (idx : Nat) : Option OpRefusal := if isRamIndex idx then none else some .ramIndex

/-- The three bound pins `CLK`, `DIO`, `CE`, when all three are bound (10_state.md R29). -/
def RtcEngine.lines (r : RtcEngine Pin) : Option (Pin × Pin × Pin) :=
  match r.clkPin, r.dioPin, r.cePin with
  | some clk, some dio, some ce => some (clk, dio, ce)
  | _, _, _ => none

/-- `REF_UNBOUND` if any of the three pins is unbound (42_rtc_transactions.md R172). -/
def State.checkBound (s : State Pin) : Option OpRefusal := if s.rtc.lines.isSome then none else some .unbound

/-- `REF_PIN_DISTINCT` if two of the pins are equal (R161). -/
def checkPinDistinct [DecidableEq Pin] (clk dio ce : Pin) : Option OpRefusal :=
  if pinsDistinct clk dio ce then none else some .pinDistinct

/-- Whether pin `p` is one of the RTC engine's bound pins (41_dht_sampler.md R121). -/
def RtcEngine.owns [DecidableEq Pin] (r : RtcEngine Pin) (p : Pin) : Bool :=
  r.clkPin == some p || r.dioPin == some p || r.cePin == some p

/-- `REF_PIN_SHARED` if the query's pin is bound to the RTC engine (R121). -/
def State.checkPinShared [DecidableEq Pin] (s : State Pin) (p : Pin) : Option OpRefusal :=
  if s.rtc.owns p then some .pinShared else none

/-- `REF_BUSY` if the DHT engine is busy (R112). -/
def State.checkDhtIdle (s : State Pin) : Option OpRefusal := if s.dht.busy then some .busy else none

/-- `REF_BUSY` if the RTC engine is busy (R112). -/
def State.checkRtcIdle (s : State Pin) : Option OpRefusal := if s.rtc.busy then some .busy else none

/-- Admission before action (R114): refuse with the first reason, else go on with the operation. -/
def State.admission (s : State Pin) (reason : Option OpRefusal) (accepted : State Pin) : State Pin :=
  match reason with
  | some r => s.refuse r
  | none => accepted

/-- The value of an operand of one bit: 1 is `true` (R71). -/
def bitOperand (n : Nat) : Bool := n == 1

/-- `VAR`: 0 is DHT11, 1 is DHT22 (R71). -/
def variantOperand (n : Nat) : Variant := if n == 0 then .dht11 else .dht22

/-- `U`: 0 is Celsius, 1 is Fahrenheit (R71). -/
def unitOperand (n : Nat) : TempUnit := if n == 0 then .celsius else .fahrenheit

end Sys2Proof.Machine
end

