-- ==== Sys2Proof/Machine/DhtOps.lean ====
section
/-! DEFINITION. The meanings of the DHT engine's host operations (41_dht_sampler.md R120, R121, R140 to R144): the issue
step of 40_port_primitives.md R112, with the completion of the operations that have no port event (R113). -/

namespace Sys2Proof.Machine

variable {Pin : Type}

/-- `dht.query` (R120): admission R121, then the engine starts (R112, R122). -/
def execDhtQuery [DecidableEq Pin] (pin : Pin) (var pull diag : Nat) (s : State Pin) :
    Host.Outcome (State Pin) Fault Refusal :=
  .next (s.admission
    ((checkOperand (isBit var && isBit pull && isBit diag)).or ((s.checkPinShared pin).or s.checkDhtIdle))
    (s.setDht (s.dht.start pin (variantOperand var) (bitOperand pull) (bitOperand diag))))

/-- `dht.unit` (R140). -/
def execDhtUnit (u : Nat) (s : State Pin) : Host.Outcome (State Pin) Fault Refusal :=
  .next (s.admission ((checkOperand (isBit u)).or s.checkDhtIdle)
    ((s.setDht { s.dht with unit := unitOperand u }).complete .dht .nothing))

/-- Return a result register, or fault when it holds no value (R141, R142; 60_exceptions.md R235). -/
def State.returnResult (s : State Pin) (reg : Option Milli) : State Pin :=
  match reg with
  | some m => s.complete .dht (.value m)
  | none => s.faultOp .readUnset

/-- `dht.rdh` (R141). -/
def execDhtRdh (s : State Pin) : Host.Outcome (State Pin) Fault Refusal :=
  .next (s.admission s.checkDhtIdle (s.returnResult s.dht.hum))

/-- `dht.rdt` (R142). -/
def execDhtRdt (s : State Pin) : Host.Outcome (State Pin) Fault Refusal :=
  .next (s.admission s.checkDhtIdle (s.returnResult s.dht.temp))

/-- `dht.rdcs` (R143). -/
def execDhtRdcs (s : State Pin) : Host.Outcome (State Pin) Fault Refusal :=
  .next (s.admission s.checkDhtIdle (s.complete .dht (.flag s.dht.csv)))

/-- `dht.rdsr` (R144). -/
def execDhtRdsr (s : State Pin) : Host.Outcome (State Pin) Fault Refusal :=
  .next (s.admission s.checkDhtIdle (s.complete .dht (.flag s.dht.srsp)))

end Sys2Proof.Machine
end

