-- ==== Sys2Proof/Decode.lean ====
section
/-! DEFINITION. Decoding and encoding. A host request is decoded by its opcode as a whole (30_encoding.md R70, R72,
R73); a wire command byte by the DS1302 map (20_memory.md R52, 30_encoding.md R74, R83). The encoder follows. -/

namespace Sys2Proof

variable {Pin : Type}

/-- Why a code spells no instruction. -/
inductive DecodeError where
  /-- The opcode is none of R72's (R73). -/
  | badOpcode
  /-- The opcode is R72's and the operand record has another number of operands (log 2), or an operand of another kind
  (R71). -/
  | operandShape
  /-- The command byte is not in the map of R52, or is sent with the direction that its bit 0 does not name (R74). -/
  | unmappedCommand
  deriving DecidableEq, Repr

/-- The host operations, one per row of R72. -/
inductive HostOp where
  | dhtQuery
  | dhtUnit
  | dhtRdh
  | dhtRdt
  | dhtRdcs
  | dhtRdsr
  | rtcBind
  | rtcGetsec
  | rtcGetmin
  | rtcGethour
  | rtcGetday
  | rtcGetmonth
  | rtcGetwday
  | rtcGetyear
  | rtcSetsec
  | rtcSetmin
  | rtcSethour
  | rtcSetday
  | rtcSetmonth
  | rtcSetwday
  | rtcSetyear
  | rtcSetdt
  | rtcStart
  | rtcPause
  | rtcRdram
  | rtcWrram
  deriving DecidableEq, Repr

/-- The opcode of a host operation (R72). -/
def HostOp.opcode (o : HostOp) : Byte :=
  match o with
  | .dhtQuery => 0x01#8
  | .dhtUnit => 0x02#8
  | .dhtRdh => 0x03#8
  | .dhtRdt => 0x04#8
  | .dhtRdcs => 0x05#8
  | .dhtRdsr => 0x06#8
  | .rtcBind => 0x10#8
  | .rtcGetsec => 0x11#8
  | .rtcGetmin => 0x12#8
  | .rtcGethour => 0x13#8
  | .rtcGetday => 0x14#8
  | .rtcGetmonth => 0x15#8
  | .rtcGetwday => 0x16#8
  | .rtcGetyear => 0x17#8
  | .rtcSetsec => 0x21#8
  | .rtcSetmin => 0x22#8
  | .rtcSethour => 0x23#8
  | .rtcSetday => 0x24#8
  | .rtcSetmonth => 0x25#8
  | .rtcSetwday => 0x26#8
  | .rtcSetyear => 0x27#8
  | .rtcSetdt => 0x30#8
  | .rtcStart => 0x31#8
  | .rtcPause => 0x32#8
  | .rtcRdram => 0x40#8
  | .rtcWrram => 0x41#8

/-- The kinds of a host operation's operands (R71, R72). -/
def HostOp.shape (o : HostOp) : List OperandKind :=
  match o with
  | .dhtQuery => [.pin, .num, .num, .num]
  | .dhtUnit => [.num]
  | .dhtRdh => []
  | .dhtRdt => []
  | .dhtRdcs => []
  | .dhtRdsr => []
  | .rtcBind => [.pin, .pin, .pin]
  | .rtcGetsec => []
  | .rtcGetmin => []
  | .rtcGethour => []
  | .rtcGetday => []
  | .rtcGetmonth => []
  | .rtcGetwday => []
  | .rtcGetyear => []
  | .rtcSetsec => [.num]
  | .rtcSetmin => [.num]
  | .rtcSethour => [.num]
  | .rtcSetday => [.num]
  | .rtcSetmonth => [.num]
  | .rtcSetwday => [.num]
  | .rtcSetyear => [.num]
  | .rtcSetdt => [.num, .num, .num, .num, .num, .num, .num]
  | .rtcStart => []
  | .rtcPause => []
  | .rtcRdram => [.num]
  | .rtcWrram => [.num, .num]

/-- Every host operation, in the order of R72. -/
def HostOp.all : List HostOp :=
  [.dhtQuery, .dhtUnit, .dhtRdh, .dhtRdt, .dhtRdcs, .dhtRdsr, .rtcBind, .rtcGetsec, .rtcGetmin, .rtcGethour,
   .rtcGetday, .rtcGetmonth, .rtcGetwday, .rtcGetyear, .rtcSetsec, .rtcSetmin, .rtcSethour, .rtcSetday,
   .rtcSetmonth, .rtcSetwday, .rtcSetyear, .rtcSetdt, .rtcStart, .rtcPause, .rtcRdram, .rtcWrram]

/-- The host operation that an opcode selects as a whole (R70), `none` for a reserved opcode (R73). -/
def HostOp.ofOpcode (op : Byte) : Option HostOp := HostOp.all.find? fun o => o.opcode == op

/-- The instruction of a host operation with operands of the right number and kinds (R71, R72). -/
def HostOp.instr (o : HostOp) (args : List (Operand Pin)) : Option (Instr Pin) :=
  match o, args with
  | .dhtQuery, [.pin pin, .num var, .num pull, .num diag] => some (.dhtQuery pin var pull diag)
  | .dhtUnit, [.num u] => some (.dhtUnit u)
  | .dhtRdh, [] => some .dhtRdh
  | .dhtRdt, [] => some .dhtRdt
  | .dhtRdcs, [] => some .dhtRdcs
  | .dhtRdsr, [] => some .dhtRdsr
  | .rtcBind, [.pin clk, .pin dio, .pin ce] => some (.rtcBind clk dio ce)
  | .rtcGetsec, [] => some .rtcGetsec
  | .rtcGetmin, [] => some .rtcGetmin
  | .rtcGethour, [] => some .rtcGethour
  | .rtcGetday, [] => some .rtcGetday
  | .rtcGetmonth, [] => some .rtcGetmonth
  | .rtcGetwday, [] => some .rtcGetwday
  | .rtcGetyear, [] => some .rtcGetyear
  | .rtcSetsec, [.num v] => some (.rtcSetsec v)
  | .rtcSetmin, [.num v] => some (.rtcSetmin v)
  | .rtcSethour, [.num v] => some (.rtcSethour v)
  | .rtcSetday, [.num v] => some (.rtcSetday v)
  | .rtcSetmonth, [.num v] => some (.rtcSetmonth v)
  | .rtcSetwday, [.num v] => some (.rtcSetwday v)
  | .rtcSetyear, [.num v] => some (.rtcSetyear v)
  | .rtcSetdt, [.num y, .num mo, .num dd, .num wd, .num hh, .num mi, .num ss] => some (.rtcSetdt y mo dd wd hh mi ss)
  | .rtcStart, [] => some .rtcStart
  | .rtcPause, [] => some .rtcPause
  | .rtcRdram, [.num idx] => some (.rtcRdram idx)
  | .rtcWrram, [.num idx, .num d] => some (.rtcWrram idx d)
  | _, _ => none

/-- Decode a host request (R72, R73). -/
def decodeHost (r : Request Pin) : Except DecodeError (Instr Pin) :=
  match HostOp.ofOpcode r.op with
  | none => .error .badOpcode
  | some o =>
    match o.instr r.args with
    | some i => .ok i
    | none => .error .operandShape

/-- The write command of RAM byte `idx` (R52: 0xC0 + 2·i). -/
def ramWriteCommand (idx : Nat) : Byte := BitVec.ofNat 8 (Config.ramCommand.toNat + 2 * idx)

/-- The read command of a register whose write command is `w` (R51, R171: `w + 1`). -/
def readCommand (w : Byte) : Byte := w + 1#8

/-- The index of a RAM command byte of R52: bits 7:6 are those of the first RAM command, bits 5:1 the index, 0 to 30.
It is `none` for every other byte, 0xFE and 0xFF among them. -/
def ramIndexOf (cmd : Byte) : Option Nat :=
  if bits 7 6 cmd.toNat = bits 7 6 Config.ramCommand.toNat ∧ isRamIndex (bits 5 1 cmd.toNat) then
    some (bits 5 1 cmd.toNat)
  else none

/-- Decode the command byte of a write transaction (R52, R74: bit 0 is 0). -/
def decodeWireWrite (cmd dat : Byte) : Except DecodeError (Instr Pin) :=
  if cmd = Config.secCommand then .ok (.ds1302WriteSec dat)
  else if cmd = Config.minCommand then .ok (.ds1302WriteMin dat)
  else if cmd = Config.hourCommand then .ok (.ds1302WriteHour dat)
  else if cmd = Config.dateCommand then .ok (.ds1302WriteDate dat)
  else if cmd = Config.monthCommand then .ok (.ds1302WriteMonth dat)
  else if cmd = Config.wdayCommand then .ok (.ds1302WriteWday dat)
  else if cmd = Config.yearCommand then .ok (.ds1302WriteYear dat)
  else if cmd = Config.wpCommand then .ok (.ds1302WriteWp dat)
  else if bits 0 0 cmd.toNat = 0 then
    match ramIndexOf cmd with
    | some idx => .ok (.ds1302WriteRam idx dat)
    | none => .error .unmappedCommand
  else .error .unmappedCommand

/-- Decode the command byte of a read transaction (R52, R74: bit 0 is 1). -/
def decodeWireRead (cmd : Byte) : Except DecodeError (Instr Pin) :=
  if cmd = readCommand Config.secCommand then .ok .ds1302ReadSec
  else if cmd = readCommand Config.minCommand then .ok .ds1302ReadMin
  else if cmd = readCommand Config.hourCommand then .ok .ds1302ReadHour
  else if cmd = readCommand Config.dateCommand then .ok .ds1302ReadDate
  else if cmd = readCommand Config.monthCommand then .ok .ds1302ReadMonth
  else if cmd = readCommand Config.wdayCommand then .ok .ds1302ReadWday
  else if cmd = readCommand Config.yearCommand then .ok .ds1302ReadYear
  else if cmd = readCommand Config.wpCommand then .ok .ds1302ReadWp
  else if bits 0 0 cmd.toNat = 1 then
    match ramIndexOf cmd with
    | some idx => .ok (.ds1302ReadRam idx)
    | none => .error .unmappedCommand
  else .error .unmappedCommand

/-- Decode any code: an instruction, or the reason there is none. -/
def decode (c : Code Pin) : Except DecodeError (Instr Pin) :=
  match c with
  | .host r => decodeHost r
  | .wireWrite cmd dat => decodeWireWrite cmd dat
  | .wireRead cmd => decodeWireRead cmd

/-- The code of a host operation with its operands (R70). -/
def HostOp.code (o : HostOp) (args : List (Operand Pin)) : Code Pin := .host ⟨o.opcode, args⟩

/-- The code that spells an instruction (R72; R52, R74). -/
def encode (i : Instr Pin) : Code Pin :=
  match i with
  | .dhtQuery pin var pull diag => HostOp.code .dhtQuery [.pin pin, .num var, .num pull, .num diag]
  | .dhtUnit u => HostOp.code .dhtUnit [.num u]
  | .dhtRdh => HostOp.code .dhtRdh []
  | .dhtRdt => HostOp.code .dhtRdt []
  | .dhtRdcs => HostOp.code .dhtRdcs []
  | .dhtRdsr => HostOp.code .dhtRdsr []
  | .rtcBind clk dio ce => HostOp.code .rtcBind [.pin clk, .pin dio, .pin ce]
  | .rtcGetsec => HostOp.code .rtcGetsec []
  | .rtcGetmin => HostOp.code .rtcGetmin []
  | .rtcGethour => HostOp.code .rtcGethour []
  | .rtcGetday => HostOp.code .rtcGetday []
  | .rtcGetmonth => HostOp.code .rtcGetmonth []
  | .rtcGetwday => HostOp.code .rtcGetwday []
  | .rtcGetyear => HostOp.code .rtcGetyear []
  | .rtcSetsec v => HostOp.code .rtcSetsec [.num v]
  | .rtcSetmin v => HostOp.code .rtcSetmin [.num v]
  | .rtcSethour v => HostOp.code .rtcSethour [.num v]
  | .rtcSetday v => HostOp.code .rtcSetday [.num v]
  | .rtcSetmonth v => HostOp.code .rtcSetmonth [.num v]
  | .rtcSetwday v => HostOp.code .rtcSetwday [.num v]
  | .rtcSetyear v => HostOp.code .rtcSetyear [.num v]
  | .rtcSetdt y mo dd wd hh mi ss =>
      HostOp.code .rtcSetdt [.num y, .num mo, .num dd, .num wd, .num hh, .num mi, .num ss]
  | .rtcStart => HostOp.code .rtcStart []
  | .rtcPause => HostOp.code .rtcPause []
  | .rtcRdram idx => HostOp.code .rtcRdram [.num idx]
  | .rtcWrram idx d => HostOp.code .rtcWrram [.num idx, .num d]
  | .ds1302WriteSec d => .wireWrite Config.secCommand d
  | .ds1302ReadSec => .wireRead (readCommand Config.secCommand)
  | .ds1302WriteMin d => .wireWrite Config.minCommand d
  | .ds1302ReadMin => .wireRead (readCommand Config.minCommand)
  | .ds1302WriteHour d => .wireWrite Config.hourCommand d
  | .ds1302ReadHour => .wireRead (readCommand Config.hourCommand)
  | .ds1302WriteDate d => .wireWrite Config.dateCommand d
  | .ds1302ReadDate => .wireRead (readCommand Config.dateCommand)
  | .ds1302WriteMonth d => .wireWrite Config.monthCommand d
  | .ds1302ReadMonth => .wireRead (readCommand Config.monthCommand)
  | .ds1302WriteWday d => .wireWrite Config.wdayCommand d
  | .ds1302ReadWday => .wireRead (readCommand Config.wdayCommand)
  | .ds1302WriteYear d => .wireWrite Config.yearCommand d
  | .ds1302ReadYear => .wireRead (readCommand Config.yearCommand)
  | .ds1302WriteWp d => .wireWrite Config.wpCommand d
  | .ds1302ReadWp => .wireRead (readCommand Config.wpCommand)
  | .ds1302WriteRam idx d => .wireWrite (ramWriteCommand idx) d
  | .ds1302ReadRam idx => .wireRead (readCommand (ramWriteCommand idx))

/-- The operand of kind `k` that a table word stands for, which gives operands no bits: pin 0, number 0. -/
def zeroOperand (k : OperandKind) : Operand PinId :=
  match k with
  | .pin => .pin 0
  | .num => .num 0

/-- The code of a table word whose bits are `w` (log 12): the low byte is the opcode of a host operation, whose
operands are then all 0 (the table gives them no bits), or else a wire command byte, whose data byte is the next. -/
def tableCode (w : Nat) : Code PinId :=
  let op : Byte := BitVec.ofNat 8 w
  match HostOp.ofOpcode op with
  | some o => o.code (o.shape.map zeroOperand)
  | none => if bits 0 0 w = 0 then .wireWrite op (BitVec.ofNat 8 (w / 256)) else .wireRead op

/-- The instruction that the decoder reads from the `nbits` low bits of `w`. -/
def decodeTableWord (nbits w : Nat) : Option Instr :=
  match decode (tableCode (w % 2 ^ nbits)) with
  | .ok i => some i
  | .error _ => none

end Sys2Proof
end

