-- ==== Sys2Proof/Machine/RtcEngine.lean ====
section
/-! DEFINITION. The RTC engine: its micro-programs (42_rtc_transactions.md R162 to R167), what one port event of them
does (R111), and how an operation starts and returns (40_port_primitives.md R112, R113). -/

namespace Sys2Proof.Machine

variable {Pin : Type}

/-! ### Micro-programs -/

/-- The three events of one bit shifted out (R162). -/
def shiftOutBit (dio clk : Pin) (i : Nat) (after : AfterPulse) : List (RtcPrim Pin) :=
  [.driveBit dio i, .drive clk true, .clockLow clk (i + 1) after]

/-- The 24 events of `ShiftOut`, bit 0 first; `last` is what follows the eighth pulse (R162). -/
def shiftOut (dio clk : Pin) (last : AfterPulse) : List (RtcPrim Pin) :=
  (List.range 7).flatMap (fun i => shiftOutBit dio clk i .nothing) ++ shiftOutBit dio clk 7 last

/-- The three events of one bit shifted in, the sample before the clock pulse (R163). -/
def shiftInBit (dio clk : Pin) (i : Nat) (after : AfterPulse) : List (RtcPrim Pin) :=
  [.sampleBit dio i, .drive clk true, .clockLow clk (i + 1) after]

/-- The 24 events of `ShiftIn`, bit 0 first, then `d <- SR` (R163). -/
def shiftIn (dio clk : Pin) : List (RtcPrim Pin) :=
  (List.range 7).flatMap (fun i => shiftInBit dio clk i .nothing) ++ shiftInBit dio clk 7 .take

/-- A write transaction after its `Drive(CE, 1)`: 49 events (R166). -/
def writeBody (clk dio ce : Pin) (v : Byte) : List (RtcPrim Pin) :=
  shiftOut dio clk (.load v) ++ (shiftOut dio clk .nothing ++ [.drive ce false])

/-- A read transaction after its `Drive(CE, 1)`: 50 events (R165). -/
def readBody (clk dio ce : Pin) : List (RtcPrim Pin) :=
  shiftOut dio clk .nothing ++ (.releaseDio dio :: (shiftIn dio clk ++ [.drive ce false]))

/-- `MemRead(w + 1, 1)` (R165, R171). -/
def memRead (w : Byte) : List (RtcMicro Pin) := [.txnRead (readCommand w)]

/-- `GuardedWrite(w, v)`: unlock, write, relock (R167). -/
def guardedWrite (w : Byte) (v : ByteSource) : List (RtcMicro Pin) :=
  [.txnWrite Config.wpCommand (.imm Config.wpClear), .txnWrite w v, .txnWrite Config.wpCommand (.imm Config.wpSet)]

/-- The guarded write of a field's setter (43_rtc_fields.md R190). -/
def setField (f : Field) (v : Nat) : List (RtcMicro Pin) := guardedWrite f.command (.imm (f.toDevice v))

/-! ### One port event -/

/-- The data byte of a write transaction, `raw` being the byte last read (R206, R207). -/
def ByteSource.value (src : ByteSource) (raw : Byte) : Byte :=
  match src with
  | .imm b => b
  | .rawAnd m => raw &&& m
  | .rawOr m => raw ||| m

/-- The assignments after a clock pulse (R162, R163, R165). -/
def AfterPulse.apply (a : AfterPulse) (r : RtcEngine Pin) : RtcEngine Pin :=
  match a with
  | .nothing => r
  | .load b => { r with sr := b, shcnt := 0 }
  | .take => { r with raw := r.sr }

/-- The event of a step with its assignments (R111; R161 to R163, R165). -/
def rtcPerform [DecidableEq Pin] (p : RtcPrim Pin) (s : State Pin) : State Pin :=
  match p with
  | .drive pin v => s.drive .rtc pin v
  | .driveBit dio i => s.drive .rtc dio (s.rtc.sr.getLsbD i)
  | .clockLow clk n after => (s.drive .rtc clk false).setRtc (after.apply { s.rtc with shcnt := n })
  | .releaseDio dio => (s.release .rtc dio false).setRtc { s.rtc with sr := 0#8, shcnt := 0 }
  | .sampleBit dio i =>
    (s.sample .rtc dio).setRtc { s.rtc with sr := s.rtc.sr + BitVec.ofNat 8 (s.nextLevel.toNat * 2 ^ i) }

/-! ### Start and return -/

/-- `UPC` set to what is left of the micro-program, `prog`. -/
def State.setRtcUpc (s : State Pin) (prog : List (RtcMicro Pin)) : State Pin := s.setRtc { s.rtc with upc := prog }

/-- What an operation returns, `d` being the byte its read transaction returned (R191 to R197, R208). -/
def RtcReturn.result (r : RtcReturn) (d : Byte) : Result :=
  match r with
  | .nothing => .nothing
  | .field f => .number (f.fromDevice (bcd2dec d))
  | .byte => .number d.toNat

/-- The engine at the first step of a micro-program (40_port_primitives.md R112). -/
def RtcEngine.launch (r : RtcEngine Pin) (prog : List (RtcMicro Pin)) (ret : RtcReturn) : RtcEngine Pin :=
  { r with busy := true, upc := prog, ret := ret }

/-- After the last step of the micro-program the operation returns (R111, R113). -/
def State.rtcSettle (s : State Pin) : State Pin :=
  if s.rtc.upc.isEmpty then
    (s.setRtc { s.rtc with busy := false }).complete .rtc (s.rtc.ret.result s.rtc.raw)
  else s

/-- Issue of an RTC operation other than `rtc.bind`: its operand checks, then R172's, then the engine starts (R112). -/
def rtcOperation (operands : Option OpRefusal) (prog : List (RtcMicro Pin)) (ret : RtcReturn) (s : State Pin) :
    Host.Outcome (State Pin) Fault Refusal :=
  .next (s.admission (operands.or (s.checkBound.or s.checkRtcIdle)) (s.setRtc (s.rtc.launch prog ret)))

/-- A transaction whose operands or lines are missing: no event, the reason is recorded and the engine is idle. No run
from reset comes here (log 18). -/
def State.refuseTxn (s : State Pin) (r : OpRefusal) : State Pin :=
  (s.setRtc { s.rtc with busy := false, upc := [] }).refuse r

/-- The first step of a transaction: `Drive(CE, 1)`, then `SR <- cmd; SHCNT <- 0` of its first `ShiftOut`, and `UPC`
goes on with the rest of the transaction (R165, R166, R111). -/
def wireTransaction [DecidableEq Pin] (operands : Option OpRefusal) (cmd : Byte)
    (body : Pin → Pin → Pin → List (RtcPrim Pin)) (s : State Pin) : Host.Outcome (State Pin) Fault Refusal :=
  match operands with
  | some r => .next (s.refuseTxn r)
  | none =>
    match s.rtc.lines with
    | none => .next (s.refuseTxn .unbound)
    | some (clk, dio, ce) =>
      .next ((s.drive .rtc ce true).setRtc
        { s.rtc with sr := cmd, shcnt := 0, busy := true, upc := (body clk dio ce).map .prim ++ s.rtc.upc })

/-- The first step of `MemWrite(cmd, 1, v)` (R166). -/
def wireWrite [DecidableEq Pin] (operands : Option OpRefusal) (cmd v : Byte) (s : State Pin) :
    Host.Outcome (State Pin) Fault Refusal :=
  wireTransaction operands cmd (fun clk dio ce => writeBody clk dio ce v) s

/-- The first step of `MemRead(cmd, 1)` (R165). -/
def wireRead [DecidableEq Pin] (operands : Option OpRefusal) (cmd : Byte) (s : State Pin) :
    Host.Outcome (State Pin) Fault Refusal :=
  wireTransaction operands cmd readBody s

end Sys2Proof.Machine
end

