-- ==== Sys2Proof/Machine/RtcOps.lean ====
section
/-! DEFINITION. The meanings of the RTC engine's host operations (42_rtc_transactions.md R161, 43_rtc_fields.md R191 to
R209): the issue step of 40_port_primitives.md R112, which loads the operation's micro-program. -/

namespace Sys2Proof.Machine

variable {Pin : Type}

/-- `rtc.bind` (R161): the binding is written, then `CE` and `CLK` are driven low. R111 places the assignments between
two port events only. That the binding, which comes before the first event, is written in the issue step, so that a
query issued before that event already finds the new pins bound (R121), is the model's choice (DESIGN CHOICE,
log 29). -/
def execRtcBind [DecidableEq Pin] (clk dio ce : Pin) (s : State Pin) : Host.Outcome (State Pin) Fault Refusal :=
  .next (s.admission ((checkPinDistinct clk dio ce).or s.checkRtcIdle)
    (s.setRtc
      { s.rtc.launch [.prim (.drive ce false), .prim (.drive clk false)] .nothing with
        clkPin := some clk, dioPin := some dio, cePin := some ce }))

/-- `rtc.getsec` (R191). -/
def execRtcGetsec (s : State Pin) : Host.Outcome (State Pin) Fault Refusal :=
  rtcOperation none (memRead Field.second.command) (.field .second) s

/-- `rtc.getmin` (R192). -/
def execRtcGetmin (s : State Pin) : Host.Outcome (State Pin) Fault Refusal :=
  rtcOperation none (memRead Field.minute.command) (.field .minute) s

/-- `rtc.gethour` (R193). -/
def execRtcGethour (s : State Pin) : Host.Outcome (State Pin) Fault Refusal :=
  rtcOperation none (memRead Field.hour.command) (.field .hour) s

/-- `rtc.getday` (R194). -/
def execRtcGetday (s : State Pin) : Host.Outcome (State Pin) Fault Refusal :=
  rtcOperation none (memRead Field.day.command) (.field .day) s

/-- `rtc.getmonth` (R195). -/
def execRtcGetmonth (s : State Pin) : Host.Outcome (State Pin) Fault Refusal :=
  rtcOperation none (memRead Field.month.command) (.field .month) s

/-- `rtc.getwday` (R196). -/
def execRtcGetwday (s : State Pin) : Host.Outcome (State Pin) Fault Refusal :=
  rtcOperation none (memRead Field.weekday.command) (.field .weekday) s

/-- `rtc.getyear` (R197). -/
def execRtcGetyear (s : State Pin) : Host.Outcome (State Pin) Fault Refusal :=
  rtcOperation none (memRead Field.year.command) (.field .year) s

/-- `rtc.setsec` (R198). -/
def execRtcSetsec (v : Nat) (s : State Pin) : Host.Outcome (State Pin) Fault Refusal :=
  rtcOperation (checkOperand (isFieldValue v)) (setField .second v) .nothing s

/-- `rtc.setmin` (R199). -/
def execRtcSetmin (v : Nat) (s : State Pin) : Host.Outcome (State Pin) Fault Refusal :=
  rtcOperation (checkOperand (isFieldValue v)) (setField .minute v) .nothing s

/-- `rtc.sethour` (R200). -/
def execRtcSethour (v : Nat) (s : State Pin) : Host.Outcome (State Pin) Fault Refusal :=
  rtcOperation (checkOperand (isFieldValue v)) (setField .hour v) .nothing s

/-- `rtc.setday` (R201). -/
def execRtcSetday (v : Nat) (s : State Pin) : Host.Outcome (State Pin) Fault Refusal :=
  rtcOperation (checkOperand (isFieldValue v)) (setField .day v) .nothing s

/-- `rtc.setmonth` (R202). -/
def execRtcSetmonth (v : Nat) (s : State Pin) : Host.Outcome (State Pin) Fault Refusal :=
  rtcOperation (checkOperand (isFieldValue v)) (setField .month v) .nothing s

/-- `rtc.setwday` (R203). -/
def execRtcSetwday (v : Nat) (s : State Pin) : Host.Outcome (State Pin) Fault Refusal :=
  rtcOperation (checkOperand (isFieldValue v)) (setField .weekday v) .nothing s

/-- `rtc.setyear` (R204). -/
def execRtcSetyear (v : Nat) (s : State Pin) : Host.Outcome (State Pin) Fault Refusal :=
  rtcOperation (checkOperand (isFieldValue v)) (setField .year v) .nothing s

/-- `rtc.setdt` (R205): seven guarded writes, in the order of the rule. -/
def execRtcSetdt (y mo dd wd hh mi ss : Nat) (s : State Pin) : Host.Outcome (State Pin) Fault Refusal :=
  rtcOperation
    (checkOperand (isFieldValue y && isFieldValue mo && isFieldValue dd && isFieldValue wd && isFieldValue hh &&
      isFieldValue mi && isFieldValue ss))
    (setField .year y ++ (setField .month mo ++ (setField .day dd ++ (setField .weekday wd ++
      (setField .hour hh ++ (setField .minute mi ++ setField .second ss))))))
    .nothing s

/-- `rtc.start` (R206): the raw seconds byte is written back with `CH` cleared. -/
def execRtcStart (s : State Pin) : Host.Outcome (State Pin) Fault Refusal :=
  rtcOperation none
    (memRead Field.second.command ++ guardedWrite Field.second.command (.rawAnd (~~~Config.chMask))) .nothing s

/-- `rtc.pause` (R207): the raw seconds byte is written back with `CH` set. -/
def execRtcPause (s : State Pin) : Host.Outcome (State Pin) Fault Refusal :=
  rtcOperation none
    (memRead Field.second.command ++ guardedWrite Field.second.command (.rawOr Config.chMask)) .nothing s

/-- `rtc.rdram` (R208). -/
def execRtcRdram (idx : Nat) (s : State Pin) : Host.Outcome (State Pin) Fault Refusal :=
  rtcOperation (checkRamIndex idx) (memRead (ramWriteCommand idx)) .byte s

/-- `rtc.wrram` (R209). -/
def execRtcWrram (idx d : Nat) (s : State Pin) : Host.Outcome (State Pin) Fault Refusal :=
  rtcOperation ((checkOperand (isByteValue d)).or (checkRamIndex idx))
    (guardedWrite (ramWriteCommand idx) (.imm (BitVec.ofNat 8 d))) .nothing s

end Sys2Proof.Machine
end

