-- ==== Sys2Proof/Machine/RtcWire.lean ====
section
/-! DEFINITION. The meanings of the wire commands (20_memory.md R52, 30_encoding.md R74): the first step of the
transaction that each command byte opens, a write (42_rtc_transactions.md R166) or a read (R165) (log 3). -/

namespace Sys2Proof.Machine

variable {Pin : Type} [DecidableEq Pin]

/-- `ds1302.write.SEC` (R166). -/
def execDs1302WriteSec (d : Byte) (s : State Pin) : Host.Outcome (State Pin) Fault Refusal :=
  wireWrite none Field.second.command d s

/-- `ds1302.read.SEC` (R165). -/
def execDs1302ReadSec (s : State Pin) : Host.Outcome (State Pin) Fault Refusal :=
  wireRead none (readCommand Field.second.command) s

/-- `ds1302.write.MIN` (R166). -/
def execDs1302WriteMin (d : Byte) (s : State Pin) : Host.Outcome (State Pin) Fault Refusal :=
  wireWrite none Field.minute.command d s

/-- `ds1302.read.MIN` (R165). -/
def execDs1302ReadMin (s : State Pin) : Host.Outcome (State Pin) Fault Refusal :=
  wireRead none (readCommand Field.minute.command) s

/-- `ds1302.write.HOUR` (R166). -/
def execDs1302WriteHour (d : Byte) (s : State Pin) : Host.Outcome (State Pin) Fault Refusal :=
  wireWrite none Field.hour.command d s

/-- `ds1302.read.HOUR` (R165). -/
def execDs1302ReadHour (s : State Pin) : Host.Outcome (State Pin) Fault Refusal :=
  wireRead none (readCommand Field.hour.command) s

/-- `ds1302.write.DATE` (R166). -/
def execDs1302WriteDate (d : Byte) (s : State Pin) : Host.Outcome (State Pin) Fault Refusal :=
  wireWrite none Field.day.command d s

/-- `ds1302.read.DATE` (R165). -/
def execDs1302ReadDate (s : State Pin) : Host.Outcome (State Pin) Fault Refusal :=
  wireRead none (readCommand Field.day.command) s

/-- `ds1302.write.MONTH` (R166). -/
def execDs1302WriteMonth (d : Byte) (s : State Pin) : Host.Outcome (State Pin) Fault Refusal :=
  wireWrite none Field.month.command d s

/-- `ds1302.read.MONTH` (R165). -/
def execDs1302ReadMonth (s : State Pin) : Host.Outcome (State Pin) Fault Refusal :=
  wireRead none (readCommand Field.month.command) s

/-- `ds1302.write.WDAY` (R166). -/
def execDs1302WriteWday (d : Byte) (s : State Pin) : Host.Outcome (State Pin) Fault Refusal :=
  wireWrite none Field.weekday.command d s

/-- `ds1302.read.WDAY` (R165). -/
def execDs1302ReadWday (s : State Pin) : Host.Outcome (State Pin) Fault Refusal :=
  wireRead none (readCommand Field.weekday.command) s

/-- `ds1302.write.YEAR` (R166). -/
def execDs1302WriteYear (d : Byte) (s : State Pin) : Host.Outcome (State Pin) Fault Refusal :=
  wireWrite none Field.year.command d s

/-- `ds1302.read.YEAR` (R165). -/
def execDs1302ReadYear (s : State Pin) : Host.Outcome (State Pin) Fault Refusal :=
  wireRead none (readCommand Field.year.command) s

/-- `ds1302.write.WP` (R166). -/
def execDs1302WriteWp (d : Byte) (s : State Pin) : Host.Outcome (State Pin) Fault Refusal :=
  wireWrite none Config.wpCommand d s

/-- `ds1302.read.WP` (R165); no operation sends it (30_encoding.md R83). -/
def execDs1302ReadWp (s : State Pin) : Host.Outcome (State Pin) Fault Refusal :=
  wireRead none (readCommand Config.wpCommand) s

/-- `ds1302.write.RAM` (R166). -/
def execDs1302WriteRam (idx : Nat) (d : Byte) (s : State Pin) : Host.Outcome (State Pin) Fault Refusal :=
  wireWrite (checkRamIndex idx) (ramWriteCommand idx) d s

/-- `ds1302.read.RAM` (R165). -/
def execDs1302ReadRam (idx : Nat) (s : State Pin) : Host.Outcome (State Pin) Fault Refusal :=
  wireRead (checkRamIndex idx) (readCommand (ramWriteCommand idx)) s

end Sys2Proof.Machine
end

