-- ==== Sys2Proof/Machine/Dispatch.lean ====
section
/-! DEFINITION. exec: one arm per constructor of Instr, each one call of its meaning. -/

namespace Sys2Proof.Machine

def exec (i : Instr) (s : State) : Host.Outcome State Fault Refusal :=
  match i with
  | .dhtQuery pin var pull diag => Sys2Proof.Machine.execDhtQuery pin var pull diag s
  | .dhtUnit u => Sys2Proof.Machine.execDhtUnit u s
  | .dhtRdh => Sys2Proof.Machine.execDhtRdh s
  | .dhtRdt => Sys2Proof.Machine.execDhtRdt s
  | .dhtRdcs => Sys2Proof.Machine.execDhtRdcs s
  | .dhtRdsr => Sys2Proof.Machine.execDhtRdsr s
  | .rtcBind clk dio ce => Sys2Proof.Machine.execRtcBind clk dio ce s
  | .rtcGetsec => Sys2Proof.Machine.execRtcGetsec s
  | .rtcGetmin => Sys2Proof.Machine.execRtcGetmin s
  | .rtcGethour => Sys2Proof.Machine.execRtcGethour s
  | .rtcGetday => Sys2Proof.Machine.execRtcGetday s
  | .rtcGetmonth => Sys2Proof.Machine.execRtcGetmonth s
  | .rtcGetwday => Sys2Proof.Machine.execRtcGetwday s
  | .rtcGetyear => Sys2Proof.Machine.execRtcGetyear s
  | .rtcSetsec v => Sys2Proof.Machine.execRtcSetsec v s
  | .rtcSetmin v => Sys2Proof.Machine.execRtcSetmin v s
  | .rtcSethour v => Sys2Proof.Machine.execRtcSethour v s
  | .rtcSetday v => Sys2Proof.Machine.execRtcSetday v s
  | .rtcSetmonth v => Sys2Proof.Machine.execRtcSetmonth v s
  | .rtcSetwday v => Sys2Proof.Machine.execRtcSetwday v s
  | .rtcSetyear v => Sys2Proof.Machine.execRtcSetyear v s
  | .rtcSetdt y mo dd wd hh mi ss => Sys2Proof.Machine.execRtcSetdt y mo dd wd hh mi ss s
  | .rtcStart => Sys2Proof.Machine.execRtcStart s
  | .rtcPause => Sys2Proof.Machine.execRtcPause s
  | .rtcRdram idx => Sys2Proof.Machine.execRtcRdram idx s
  | .rtcWrram idx d => Sys2Proof.Machine.execRtcWrram idx d s
  | .ds1302WriteSec d => Sys2Proof.Machine.execDs1302WriteSec d s
  | .ds1302ReadSec => Sys2Proof.Machine.execDs1302ReadSec s
  | .ds1302WriteMin d => Sys2Proof.Machine.execDs1302WriteMin d s
  | .ds1302ReadMin => Sys2Proof.Machine.execDs1302ReadMin s
  | .ds1302WriteHour d => Sys2Proof.Machine.execDs1302WriteHour d s
  | .ds1302ReadHour => Sys2Proof.Machine.execDs1302ReadHour s
  | .ds1302WriteDate d => Sys2Proof.Machine.execDs1302WriteDate d s
  | .ds1302ReadDate => Sys2Proof.Machine.execDs1302ReadDate s
  | .ds1302WriteMonth d => Sys2Proof.Machine.execDs1302WriteMonth d s
  | .ds1302ReadMonth => Sys2Proof.Machine.execDs1302ReadMonth s
  | .ds1302WriteWday d => Sys2Proof.Machine.execDs1302WriteWday d s
  | .ds1302ReadWday => Sys2Proof.Machine.execDs1302ReadWday s
  | .ds1302WriteYear d => Sys2Proof.Machine.execDs1302WriteYear d s
  | .ds1302ReadYear => Sys2Proof.Machine.execDs1302ReadYear s
  | .ds1302WriteWp d => Sys2Proof.Machine.execDs1302WriteWp d s
  | .ds1302ReadWp => Sys2Proof.Machine.execDs1302ReadWp s
  | .ds1302WriteRam idx d => Sys2Proof.Machine.execDs1302WriteRam idx d s
  | .ds1302ReadRam idx => Sys2Proof.Machine.execDs1302ReadRam idx s

end Sys2Proof.Machine
end

