-- ==== Sys2Proof/Machine/Sequencer.lean ====
section
/-! DEFINITION. Who moves and what the move is: the host issues its next request (40_port_primitives.md R112), an
engine performs its next port event (R111), or the block is reset (70_reset_and_hazards.md R260). -/

namespace Sys2Proof.Machine

variable {Pin : Type}

/-- What executes an instruction: `exec` for the host's machine, `execAt` (Machine/AnyPins.lean) over any
type of pins. -/
abbrev Executor (Pin : Type) := Instr Pin → State Pin → Host.Outcome (State Pin) Fault Refusal

/-- What the history records for a code that spells no operation (R236): a reserved opcode is `REF_BAD_OPCODE`
(30_encoding.md R73), an operand record of another length (log 2) or with an operand of another kind is outside its
type, `REF_OPERAND` (R71). -/
def decodeRefusal (e : DecodeError) : OpRefusal :=
  match e with
  | .badOpcode => .badOpcode
  | .operandShape => .operand
  | .unmappedCommand => .badOpcode

/-- The host's turn: the next request is taken, its issue is recorded (R110) and it is decoded and executed. A host
with nothing to ask changes nothing. -/
def stepHost (ex : Executor Pin) (s : State Pin) : Host.Outcome (State Pin) Fault Refusal :=
  match s.pending with
  | [] => .next s
  | r :: rest =>
    let t := (s.setPending rest).log (.issue r)
    match decodeHost r with
    | .ok i => ex i t
    | .error e => .next (t.refuse (decodeRefusal e))

/-- The DHT engine's turn (R111). An idle engine changes nothing. -/
def stepDht [DecidableEq Pin] (s : State Pin) : Host.Outcome (State Pin) Fault Refusal :=
  if s.dht.busy then .next (dhtMicroStep s) else .next s

/-- The transaction that stands next in the RTC engine's micro-program: its wire command is decoded and executed. -/
def rtcFetch (ex : Executor Pin) (cmd : Byte) (found : Except DecodeError (Instr Pin)) (s : State Pin) :
    Host.Outcome (State Pin) Fault Refusal :=
  match found with
  | .ok i => ex i s
  | .error _ => .refused (.unmappedCommand cmd)

/-- One micro-step of the RTC engine (R111). -/
def rtcMicroStep [DecidableEq Pin] (ex : Executor Pin) (s : State Pin) :
    Host.Outcome (State Pin) Fault Refusal :=
  match s.rtc.upc with
  | [] => .fault .noPrimitive
  | .txnWrite cmd src :: rest =>
    rtcFetch ex cmd (decodeWireWrite cmd (src.value s.rtc.raw)) (s.setRtcUpc rest)
  | .txnRead cmd :: rest => rtcFetch ex cmd (decodeWireRead cmd) (s.setRtcUpc rest)
  | .prim p :: rest => .next (rtcPerform p (s.setRtcUpc rest)).rtcSettle

/-- The RTC engine's turn (R111). An idle engine changes nothing. -/
def stepRtc [DecidableEq Pin] (ex : Executor Pin) (s : State Pin) : Host.Outcome (State Pin) Fault Refusal :=
  if s.rtc.busy then rtcMicroStep ex s else .next s

/-- Who moves: the head of the turns, or, when none is listed, a busy engine before the host, which waits (R112, R272;
log 10). -/
def State.mover (s : State Pin) : Turn :=
  match s.turns with
  | t :: _ => t
  | [] => if s.dht.busy then .dht else if s.rtc.busy then .rtc else .host

/-- The state once the turn is taken. -/
def State.takeTurn (s : State Pin) : State Pin := s.setTurns (s.turns.drop 1)

/-- The move of agent `t`. -/
def moveOf [DecidableEq Pin] (ex : Executor Pin) (t : Turn) (s : State Pin) :
    Host.Outcome (State Pin) Fault Refusal :=
  match t with
  | .host => stepHost ex s
  | .dht => stepDht s
  | .rtc => stepRtc ex s
  | .reset => .next s.resetEvent

/-- The RTC engine with lines to run a transaction on: its own, or pins 0, 1, 2 when any is unbound (log 13). -/
def RtcEngine.withLines (r : RtcEngine PinId) : RtcEngine PinId :=
  if r.lines.isSome then r else { r with clkPin := some 0, dioPin := some 1, cePin := some 2 }

/-- The RTC engine with the transaction `m` next, an idle engine being started with `ret` as what it returns. -/
def RtcEngine.placeTxn (r : RtcEngine PinId) (m : RtcMicro PinId) (ret : RtcReturn) : RtcEngine PinId :=
  if r.busy then { r.withLines with upc := m :: r.upc } else r.withLines.launch [m] ret

/-- `s` with the code `c` where the next step fetches it: a host request at the head of the host's requests, with the
host to move; a wire command at the head of the RTC engine's micro-program, with that engine to move (log 12,
log 13). -/
def placeCode (c : Code PinId) (s : State) : State :=
  match c with
  | .host r => (s.setPending (r :: s.pending)).setTurns (.host :: s.turns)
  | .wireWrite cmd dat => (s.setRtc (s.rtc.placeTxn (.txnWrite cmd (.imm dat)) .nothing)).setTurns (.rtc :: s.turns)
  | .wireRead cmd => (s.setRtc (s.rtc.placeTxn (.txnRead cmd) .byte)).setTurns (.rtc :: s.turns)

end Sys2Proof.Machine
end

