-- ==== Sys2Proof/Machine/Step.lean ====
section
/-! DEFINITION. One step of the machine: the agent whose turn it is moves (00_scope.md R13, 40_port_primitives.md R111,
R112); and where a table word is placed for the next step to run it. -/

namespace Sys2Proof.Machine

/-- One step: the turn is taken and its agent moves. -/
def step (s : State) : Host.Outcome State Fault Refusal := moveOf exec s.mover s.takeTurn

/-- `s` with the instruction of a table word where the next step fetches it (log 12, log 13). -/
def State.withFetchWord (s : State) (nbits w : Nat) : State := placeCode (tableCode (w % 2 ^ nbits)) s

end Sys2Proof.Machine
end

