-- ==== Sys2Proof/Laws/PerInstr.lean ====
section
/-! SUPPORT. Statements per instruction: the family `Encoding`, one lemma per constructor of Instr. -/

namespace Sys2Proof.Laws.Encoding

/-- Decoding the code of the instruction, when it is well formed, gives the instruction back. -/
def Statement (i : Instr) : Prop := WellFormed i → decode (encode i) = .ok i

/-- The RAM command bytes decode to their index (20_memory.md R52: 0xC0 + 2·i, 0xC1 + 2·i). -/
theorem ram_commands (idx : Nat) (d : Byte) (h : isRamIndex idx = true) :
    decodeWireWrite (ramWriteCommand idx) d = .ok (.ds1302WriteRam idx d : Instr) ∧
      decodeWireRead (readCommand (ramWriteCommand idx)) = .ok (.ds1302ReadRam idx : Instr) := by
  have h : idx < 31 := of_decide_eq_true h
  interval_cases idx <;> exact ⟨rfl, rfl⟩

theorem dhtQuery (pin var pull diag : Nat) : Statement (.dhtQuery pin var pull diag) := fun _ => rfl

theorem dhtUnit (u : Nat) : Statement (.dhtUnit u) := fun _ => rfl

theorem dhtRdh : Statement .dhtRdh := fun _ => rfl

theorem dhtRdt : Statement .dhtRdt := fun _ => rfl

theorem dhtRdcs : Statement .dhtRdcs := fun _ => rfl

theorem dhtRdsr : Statement .dhtRdsr := fun _ => rfl

theorem rtcBind (clk dio ce : Nat) : Statement (.rtcBind clk dio ce) := fun _ => rfl

theorem rtcGetsec : Statement .rtcGetsec := fun _ => rfl

theorem rtcGetmin : Statement .rtcGetmin := fun _ => rfl

theorem rtcGethour : Statement .rtcGethour := fun _ => rfl

theorem rtcGetday : Statement .rtcGetday := fun _ => rfl

theorem rtcGetmonth : Statement .rtcGetmonth := fun _ => rfl

theorem rtcGetwday : Statement .rtcGetwday := fun _ => rfl

theorem rtcGetyear : Statement .rtcGetyear := fun _ => rfl

theorem rtcSetsec (v : Nat) : Statement (.rtcSetsec v) := fun _ => rfl

theorem rtcSetmin (v : Nat) : Statement (.rtcSetmin v) := fun _ => rfl

theorem rtcSethour (v : Nat) : Statement (.rtcSethour v) := fun _ => rfl

theorem rtcSetday (v : Nat) : Statement (.rtcSetday v) := fun _ => rfl

theorem rtcSetmonth (v : Nat) : Statement (.rtcSetmonth v) := fun _ => rfl

theorem rtcSetwday (v : Nat) : Statement (.rtcSetwday v) := fun _ => rfl

theorem rtcSetyear (v : Nat) : Statement (.rtcSetyear v) := fun _ => rfl

theorem rtcSetdt (y mo dd wd hh mi ss : Nat) : Statement (.rtcSetdt y mo dd wd hh mi ss) := fun _ => rfl

theorem rtcStart : Statement .rtcStart := fun _ => rfl

theorem rtcPause : Statement .rtcPause := fun _ => rfl

theorem rtcRdram (idx : Nat) : Statement (.rtcRdram idx) := fun _ => rfl

theorem rtcWrram (idx d : Nat) : Statement (.rtcWrram idx d) := fun _ => rfl

theorem ds1302WriteSec (d : Byte) : Statement (.ds1302WriteSec d) := fun _ => rfl

theorem ds1302ReadSec : Statement .ds1302ReadSec := fun _ => rfl

theorem ds1302WriteMin (d : Byte) : Statement (.ds1302WriteMin d) := fun _ => rfl

theorem ds1302ReadMin : Statement .ds1302ReadMin := fun _ => rfl

theorem ds1302WriteHour (d : Byte) : Statement (.ds1302WriteHour d) := fun _ => rfl

theorem ds1302ReadHour : Statement .ds1302ReadHour := fun _ => rfl

theorem ds1302WriteDate (d : Byte) : Statement (.ds1302WriteDate d) := fun _ => rfl

theorem ds1302ReadDate : Statement .ds1302ReadDate := fun _ => rfl

theorem ds1302WriteMonth (d : Byte) : Statement (.ds1302WriteMonth d) := fun _ => rfl

theorem ds1302ReadMonth : Statement .ds1302ReadMonth := fun _ => rfl

theorem ds1302WriteWday (d : Byte) : Statement (.ds1302WriteWday d) := fun _ => rfl

theorem ds1302ReadWday : Statement .ds1302ReadWday := fun _ => rfl

theorem ds1302WriteYear (d : Byte) : Statement (.ds1302WriteYear d) := fun _ => rfl

theorem ds1302ReadYear : Statement .ds1302ReadYear := fun _ => rfl

theorem ds1302WriteWp (d : Byte) : Statement (.ds1302WriteWp d) := fun _ => rfl

theorem ds1302ReadWp : Statement .ds1302ReadWp := fun _ => rfl

theorem ds1302WriteRam (idx : Nat) (d : Byte) : Statement (.ds1302WriteRam idx d) :=
  fun h => (ram_commands idx d h).1

theorem ds1302ReadRam (idx : Nat) : Statement (.ds1302ReadRam idx) :=
  fun h => (ram_commands idx 0#8 h).2

end Sys2Proof.Laws.Encoding
end

