-- ==== Sys2Proof/Machine/Peers.lean ====
section
/-! DEFINITION. The reference peers of 20_memory.md R62 and R63, which are not normative: a DS1302 that watches the RTC
lines and answers samples, and the answers of a DHT sensor. They stand beside the block, never inside its state (R20;
log 16). A claim about the block holds for every oracle, not only for these. -/

namespace Sys2Proof.Machine

/-! ### The DS1302's registers as a memory -/

/-- A memory: (write command, byte) cells, addresses strictly rising. -/
abbrev Memory := List Host.Cell

/-- The canonical form. An address that is not listed holds a draw (R62), so no listed byte is redundant. -/
abbrev Memory.wf (m : Memory) : Prop := m.Pairwise fun a b => a.1 < b.1

/-- List the cell of `a` with `b`, in place of a cell of `a`, addresses rising. -/
def Memory.insert (m : Memory) (a : Nat) (b : Byte) : Memory :=
  match m with
  | [] => [(a, b)]
  | (c, x) :: rest =>
    if a < c then (a, b) :: (c, x) :: rest
    else if a = c then (a, b) :: rest
    else (c, x) :: Memory.insert rest a b

/-- The byte at `a`; a byte that nothing has written is a free value (R62). -/
def Memory.read (m : Memory) (a : Nat) : Byte := pinGet (Config.freeDeviceByte a) m a

/-- Write the byte at `a`. -/
def Memory.write (m : Memory) (a : Nat) (b : Byte) : Memory := m.insert a b

/-! ### The reference DS1302 (R62) -/

/-- The peer: its registers by write command, the level last driven on `DIO`, the bits clocked in since `CE` rose, and
the data samples it has answered since then. -/
structure Ds1302 where
  dev     : Memory
  line    : Level
  shifted : List Level
  sampled : Nat
  deriving DecidableEq, Repr

/-- The byte whose bit i is the i-th level of the list (R56). -/
def byteOfLevels (l : List Level) : Byte :=
  BitVec.ofNat 8 (l.foldr (fun b acc => b.toNat + 2 * acc) 0)

/-- The command byte clocked in so far; a bit that is not in yet counts as 0 (DESIGN CHOICE, log 27). -/
def Ds1302.command (d : Ds1302) : Byte := byteOfLevels (d.shifted.take 8)

/-- Whether the transaction is in the data phase of a read. -/
def Ds1302.reading (d : Ds1302) : Bool := decide (8 ≤ d.shifted.length) && d.command.getLsbD 0

/-- The effect of a write transaction with command `w` and data `b` (R62). That a write with a byte outside R52's map is
kept under that byte is the model's choice (DESIGN CHOICE, log 27). -/
def Ds1302.store (dev : Memory) (w : Nat) (b : Byte) : Memory :=
  if w = Config.wpCommand.toNat then dev.write w b
  else if (dev.read Config.wpCommand.toNat).getLsbD 7 then dev
  else dev.write w b

/-- What the peer does when `CE` is driven low: a write transaction of 16 bits takes effect (R62). R62 speaks of whole
transactions only. These are the model's choice (DESIGN CHOICE, log 27): a write has no effect unless exactly 16 bits
were clocked in since `CE` was last driven high, so one cut off before its 16th bit is dropped and so is one into which
more than 16 bits were clocked; and one that a reset of the block cut off after its 16th bit takes effect when `CE` is
next driven low, if no further bit was clocked in by then. -/
def Ds1302.commit (d : Ds1302) : Ds1302 :=
  if !d.reading && decide (d.shifted.length = 16) then
    { d with dev := Ds1302.store d.dev d.command.toNat (byteOfLevels (d.shifted.drop 8)) }
  else d

/-- What the peer does on one event of its lines. R62 speaks of whole transactions of the map and of no single event.
These are the model's choice (DESIGN CHOICE, log 27): the peer takes a bit when `CLK` is driven high, so a write that a
reset cuts off after the rising edge of the 16th clock pulse counts as 16 bits; the bit is the level last driven on
`DIO`; bits are counted whatever the level of `CE`, and rising `CE` starts the count again. -/
def Ds1302.observe {Pin : Type} [DecidableEq Pin] (clk dio ce : Pin) (d : Ds1302) (ev : Event Pin) : Ds1302 :=
  match ev with
  | .drive p v =>
    if p = ce then
      if v then { d with shifted := [], sampled := 0 } else d.commit
    else if p = dio then { d with line := v }
    else if p = clk && v && !d.reading then { d with shifted := d.shifted ++ [d.line] }
    else d
  | .sample p _ => if p = dio then { d with sampled := d.sampled + 1 } else d
  | _ => d

/-- The level that the peer puts on the data line at its next sample: in the data phase of a read, bit i of the
addressed byte at the i-th sample (R62). The rest is the model's choice (DESIGN CHOICE, log 27): the same bit of what is
kept under the byte before the command byte is the answer outside that phase, with fewer than 8 bits in or in a write,
and for a read with a byte outside R52's map; every sample since `CE` rose counts, and from the ninth on the answer is
0. -/
def Ds1302.answer (d : Ds1302) : Level := (d.dev.read (d.command.toNat - 1)).getLsbD d.sampled

/-! ### The reference DHT sensor (R63) -/

/-- The three answers of a bit cell. -/
def bitCellAnswers (v : Level) : List Level := [false, true, v]

/-- The bits of a byte, most significant first (20_memory.md R55). -/
def byteBits (b : Byte) : List Level := (List.range 8).map fun i => b.getLsbD (7 - i)

/-- The answers to the samples of one query: 123 when the sensor is present, one 1 when it is not (R63). -/
def dhtAnswers (present : Bool) (bytes : List Byte) : List Level :=
  if present then [false, true, false] ++ (bytes.flatMap byteBits).flatMap bitCellAnswers else [true]

end Sys2Proof.Machine
end

