-- ==== Sys2Proof/Machine/AnyPins.lean ====
section
/-! DEFINITION. The machine with R7's parameter `PinId` as its argument: one step over any type of pins with decidable
equality (00_scope.md R7; log 6). The host's names fix `exec` and `step` at the default type of pins; `execAt` has the
same arms over the same meanings, and at that type the two machines are one (`Obligations.PinsAreOnlyNames`). -/

namespace Sys2Proof.Machine

variable {Pin : Type} [DecidableEq Pin]

/-- The meaning of an instruction, over any type of pins. -/
def execAt (i : Instr Pin) (s : State Pin) : Host.Outcome (State Pin) Fault Refusal :=
  match i with
  | .dhtQuery pin var pull diag => execDhtQuery pin var pull diag s
  | .dhtUnit u => execDhtUnit u s
  | .dhtRdh => execDhtRdh s
  | .dhtRdt => execDhtRdt s
  | .dhtRdcs => execDhtRdcs s
  | .dhtRdsr => execDhtRdsr s
  | .rtcBind clk dio ce => execRtcBind clk dio ce s
  | .rtcGetsec => execRtcGetsec s
  | .rtcGetmin => execRtcGetmin s
  | .rtcGethour => execRtcGethour s
  | .rtcGetday => execRtcGetday s
  | .rtcGetmonth => execRtcGetmonth s
  | .rtcGetwday => execRtcGetwday s
  | .rtcGetyear => execRtcGetyear s
  | .rtcSetsec v => execRtcSetsec v s
  | .rtcSetmin v => execRtcSetmin v s
  | .rtcSethour v => execRtcSethour v s
  | .rtcSetday v => execRtcSetday v s
  | .rtcSetmonth v => execRtcSetmonth v s
  | .rtcSetwday v => execRtcSetwday v s
  | .rtcSetyear v => execRtcSetyear v s
  | .rtcSetdt y mo dd wd hh mi ss => execRtcSetdt y mo dd wd hh mi ss s
  | .rtcStart => execRtcStart s
  | .rtcPause => execRtcPause s
  | .rtcRdram idx => execRtcRdram idx s
  | .rtcWrram idx d => execRtcWrram idx d s
  | .ds1302WriteSec d => execDs1302WriteSec d s
  | .ds1302ReadSec => execDs1302ReadSec s
  | .ds1302WriteMin d => execDs1302WriteMin d s
  | .ds1302ReadMin => execDs1302ReadMin s
  | .ds1302WriteHour d => execDs1302WriteHour d s
  | .ds1302ReadHour => execDs1302ReadHour s
  | .ds1302WriteDate d => execDs1302WriteDate d s
  | .ds1302ReadDate => execDs1302ReadDate s
  | .ds1302WriteMonth d => execDs1302WriteMonth d s
  | .ds1302ReadMonth => execDs1302ReadMonth s
  | .ds1302WriteWday d => execDs1302WriteWday d s
  | .ds1302ReadWday => execDs1302ReadWday s
  | .ds1302WriteYear d => execDs1302WriteYear d s
  | .ds1302ReadYear => execDs1302ReadYear s
  | .ds1302WriteWp d => execDs1302WriteWp d s
  | .ds1302ReadWp => execDs1302ReadWp s
  | .ds1302WriteRam idx d => execDs1302WriteRam idx d s
  | .ds1302ReadRam idx => execDs1302ReadRam idx s

/-- One step, over any type of pins: the turn is taken and its agent moves. -/
def stepAt (s : State Pin) : Host.Outcome (State Pin) Fault Refusal := moveOf execAt s.mover s.takeTurn

end Sys2Proof.Machine
end

