-- ==== Sys2Proof/Safety.lean ====
section
/-! DEFINITION. The terms claims use: the events that the rules list for transactions and queries
(42_rtc_transactions.md R162 to R167, 41_dht_sampler.md R120), what the marks of the history are (60_exceptions.md R235,
R236), when an engine runs undisturbed, and the machine's invariant. -/

namespace Sys2Proof.Machine

/-! ### Events, as the rules list them -/

/-- The history entries of events of engine `e`. -/
def entriesOf (e : Engine) (evs : List (Event PinId)) : List (Entry PinId) := evs.map (.port e)

/-- The 24 events of `ShiftOut(b)` (R162). -/
def shiftOutEvents (clk dio : PinId) (b : Byte) : List (Event PinId) :=
  (List.range 8).flatMap fun i => [.drive dio (b.getLsbD i), .drive clk true, .drive clk false]

/-- The 24 events of `ShiftIn` when the i-th sample answers `v i` (R163). -/
def shiftInEvents (clk dio : PinId) (v : Nat → Level) : List (Event PinId) :=
  (List.range 8).flatMap fun i => [.sample dio (v i), .drive clk true, .drive clk false]

/-- The byte of eight samples, bit 0 first (R163). -/
def sampledByte (v : Nat → Level) : Byte :=
  BitVec.ofNat 8 ((v 0).toNat + 2 * (v 1).toNat + 4 * (v 2).toNat + 8 * (v 3).toNat + 16 * (v 4).toNat +
    32 * (v 5).toNat + 64 * (v 6).toNat + 128 * (v 7).toNat)

/-- The 51 events of `MemRead(cmd, 1)` (R165). -/
def readEvents (clk dio ce : PinId) (cmd : Byte) (v : Nat → Level) : List (Event PinId) :=
  [.drive ce true] ++ shiftOutEvents clk dio cmd ++ [.release dio false] ++ shiftInEvents clk dio v ++ [.drive ce false]

/-- The 50 events of `MemWrite(cmd, 1, b)` (R166). -/
def writeEvents (clk dio ce : PinId) (cmd b : Byte) : List (Event PinId) :=
  [.drive ce true] ++ shiftOutEvents clk dio cmd ++ shiftOutEvents clk dio b ++ [.drive ce false]

/-- The 150 events of `GuardedWrite(w, b)` (R167). -/
def guardedEvents (clk dio ce : PinId) (w b : Byte) : List (Event PinId) :=
  writeEvents clk dio ce 0x8E#8 0x00#8 ++ writeEvents clk dio ce w b ++ writeEvents clk dio ce 0x8E#8 0x80#8

/-- The levels that the oracle answers next: the n-th of them. -/
def State.coming (s : State) (n : Nat) : Level := s.oracle.level n

/-! ### Runs -/

/-- `n` steps, stopping at the first fault or refusal. -/
def steps (n : Nat) (s : State) : Host.Outcome State Fault Refusal :=
  match n with
  | 0 => .next s
  | k + 1 =>
    match step s with
    | .next t => steps k t
    | .fault f => .fault f
    | .refused r => .refused r

/-! ### When an engine runs undisturbed -/

/-- No turns are listed, so that a busy engine moves before the host. -/
def State.unscheduled (s : State) : Prop := s.turns = []

/-- The RTC engine idle and bound to three pairwise distinct pins. -/
def State.rtcReady (s : State) (clk dio ce : PinId) : Prop :=
  s.rtc.busy = false ∧ s.rtc.lines = some (clk, dio, ce) ∧ clk ≠ dio ∧ clk ≠ ce ∧ dio ≠ ce

/-- Both engines idle, the RTC engine bound, and no turns listed: an RTC operation issued now runs undisturbed. -/
def State.rtcAlone (s : State) (clk dio ce : PinId) : Prop :=
  s.rtcReady clk dio ce ∧ s.dht.busy = false ∧ s.unscheduled

/-- Both engines idle and no turns listed: a query issued now runs undisturbed. -/
def State.dhtAlone (s : State) : Prop := s.dht.busy = false ∧ s.rtc.busy = false ∧ s.unscheduled

/-- What an RTC operation that ran to its end leaves as it was: the DHT engine, every pull-up, the inputs of the model
other than the oracle, and the binding. -/
def State.rtcFrame (s t : State) : Prop :=
  t.dht = s.dht ∧ t.pulls = s.pulls ∧ t.pending = s.pending ∧ t.turns = s.turns ∧ t.pollBound = s.pollBound ∧
    t.rtc.lines = s.rtc.lines

/-- An RTC operation completes: `exec i` answers a next state in which only the RTC engine's registers differ, and from
it `k` steps end the operation, having recorded the events `evs` and the result `r` and drawn `draws` levels, `SR`
holding `sr`, the last byte read being `raw`, and the lines as 42_rtc_transactions.md R173 leaves them. -/
def State.rtcCompletes (s : State) (clk dio ce : PinId) (i : Instr) (k : Nat) (evs : List (Event PinId)) (draws : Nat)
    (r : Result) (sr raw : Byte) (dioMode : PinMode) : Prop :=
  ∃ t u, exec i s = .next t ∧ t = s.setRtc t.rtc ∧ t.rtc.busy = true ∧ t.rtc.lines = s.rtc.lines ∧
    steps k t = .next u ∧ u.rtc.busy = false ∧
    u.hist = s.hist ++ entriesOf .rtc evs ++ [.done .rtc r] ∧ u.oracle = s.oracle.dropLevels draws ∧ s.rtcFrame u ∧
    u.rtc.sr = sr ∧ u.rtc.shcnt = 8 ∧ u.rtc.raw = raw ∧
    u.mode ce = .out0 ∧ u.mode clk = .out0 ∧ u.mode dio = dioMode ∧
    ∀ q, q ≠ clk → q ≠ dio → q ≠ ce → u.mode q = s.mode q

/-- A transaction inside a running operation: `exec i` answers the state after the transaction's first event, `CE`
driven high, in which otherwise only the RTC engine's registers differ (`SR` holds the command, `SHCNT` is 0); and `k`
more steps record the rest of `evs`, leaving the micro-program at what it had left, or the operation returned when
nothing was left. -/
def State.txnCompletes (s : State) (clk dio ce : PinId) (i : Instr) (cmd : Byte) (k : Nat) (evs : List (Event PinId))
    (draws : Nat) (sr raw : Byte) (dioMode : PinMode) : Prop :=
  ∃ t u, exec i s = .next t ∧ t = (s.drive .rtc ce true).setRtc t.rtc ∧ t.rtc.sr = cmd ∧ t.rtc.shcnt = 0 ∧
    t.rtc.raw = s.rtc.raw ∧ t.rtc.ret = s.rtc.ret ∧ t.rtc.busy = true ∧ t.rtc.lines = s.rtc.lines ∧
    steps k t = .next u.rtcSettle ∧ u.rtc.upc = s.rtc.upc ∧ u.rtc.busy = true ∧ u.rtc.ret = s.rtc.ret ∧
    u.hist = s.hist ++ entriesOf .rtc evs ∧ u.oracle = s.oracle.dropLevels draws ∧ s.rtcFrame u ∧
    u.rtc.sr = sr ∧ u.rtc.shcnt = 8 ∧ u.rtc.raw = raw ∧
    u.mode ce = .out0 ∧ u.mode clk = .out0 ∧ u.mode dio = dioMode ∧
    ∀ q, q ≠ clk → q ≠ dio → q ≠ ce → u.mode q = s.mode q

/-- The RTC engine is in the middle of an operation, bound to three distinct pins, and no other agent moves. -/
def State.rtcRunning (s : State) (clk dio ce : PinId) : Prop :=
  s.rtc.busy = true ∧ s.rtc.lines = some (clk, dio, ce) ∧ clk ≠ dio ∧ clk ≠ ce ∧ dio ≠ ce ∧ s.dht.busy = false ∧
    s.unscheduled

/-! ### The query -/

/-- The four waits of a query (41_dht_sampler.md R125, R126): the label by the number of samples taken, the level that
is waited out, the label after it. -/
def WaitAt (label : Nat → DhtLabel) (v : Level) (next : DhtLabel) : Prop :=
  (label = .presenceLow ∧ v = false ∧ next = .presenceHigh 0) ∨
  (label = .presenceHigh ∧ v = true ∧ next = .bitHigh 0 0) ∨
  (∃ k, label = .bitHigh k ∧ v = true ∧ next = .bitLow k 0) ∨
  (∃ k, label = .bitLow k ∧ v = false ∧ next = .bitDelay k)

/-- `n` samples of `p`, each answering `v`. -/
def samplesOf (p : PinId) (v : Level) (n : Nat) : List (Event PinId) := List.replicate n (.sample p v)

/-- The events of a query up to its response sample, which answers `v` (R122, R123, R124). -/
def startEvents (pin : PinId) (pull : Bool) (t₀ : Clock) (v : Level) : List (Event PinId) :=
  [.now t₀, .drive pin false, .delayMs 18, .release pin pull, .delayUs 40, .sample pin v]

/-- The answers to a wait that sees the waited level `v` `n` times, then the other one (40_port_primitives.md R108). -/
def waitAnswers (v : Level) (n : Nat) : List Level := List.replicate n v ++ [!v]

/-- The events of that wait. -/
def waitEvents (p : PinId) (v : Level) (n : Nat) : List (Event PinId) := samplesOf p v n ++ [.sample p (!v)]

/-- The answers to a bit cell whose bit is `v`, its two waits seeing the waited level `a` and `b` times (R126). -/
def cellAnswers (v : Level) (a b : Nat) : List Level := waitAnswers true a ++ waitAnswers false b ++ [v]

/-- The events of that bit cell. -/
def cellEvents (pin : PinId) (v : Level) (a b : Nat) : List (Event PinId) :=
  waitEvents pin true a ++ waitEvents pin false b ++ [.delayUs 28, .sample pin v]

/-- The answers of a sensor that responds and sends the frame `f`, the `j`-th of the 82 waits seeing the waited level
`w j` times (R124 to R126). With `w` always 0 it is the reference sensor of 20_memory.md R63. -/
def frameAnswers (f : Frame) (w : Nat → Nat) : List Level :=
  [false] ++ waitAnswers false (w 0) ++ waitAnswers true (w 1) ++
    (List.range 40).flatMap fun k => cellAnswers (f.getLsbD k) (w (2 * k + 2)) (w (2 * k + 3))

/-- The events of that query up to its second `Now` (R120). -/
def frameEvents (pin : PinId) (pull : Bool) (t₀ t₁ : Clock) (f : Frame) (w : Nat → Nat) : List (Event PinId) :=
  startEvents pin pull t₀ false ++ waitEvents pin false (w 0) ++ waitEvents pin true (w 1) ++
    (List.range 40).flatMap (fun k => cellEvents pin (f.getLsbD k) (w (2 * k + 2)) (w (2 * k + 3))) ++ [.now t₁]

/-- How often the first `n` waits see the waited level, in all. -/
def waited (w : Nat → Nat) (n : Nat) : Nat := ((List.range n).map w).sum

/-- What a finished query leaves as it was or released: the RTC engine, the other pins' drivers, and the inputs of the
model other than the oracle; its pin is an input, with the pull-up configured if `pull` (R102, R124). -/
def State.queryFrame (s u : State) (pin : PinId) (pull : Bool) : Prop :=
  u.rtc = s.rtc ∧ u.pending = s.pending ∧ u.turns = s.turns ∧ u.pollBound = s.pollBound ∧
    (∀ q, u.mode q = if q = pin then .input else s.mode q) ∧
    (∀ q, u.pull q = if pull = true ∧ q = pin then .up else s.pull q)

/-! ### Admission, by the table of 60_exceptions.md R236 -/

/-- Whether the instruction is a host operation (30_encoding.md R72), not a wire command. -/
def isHostOp (i : Instr) : Bool :=
  match encode i with
  | .host _ => true
  | _ => false

/-- Whether the host operation is one of the DHT engine (R72: opcodes below 0x10). -/
def isDhtOp (i : Instr) : Bool :=
  match encode i with
  | .host r => decide (r.op.toNat < 0x10)
  | _ => false

/-- The row `REF_OPERAND` of R236. -/
def operandsLegal (i : Instr) : Bool :=
  match i with
  | .dhtQuery _ var pull diag => decide (var < 2 ∧ pull < 2 ∧ diag < 2)
  | .dhtUnit u => decide (u < 2)
  | .rtcSetsec v | .rtcSetmin v | .rtcSethour v | .rtcSetday v | .rtcSetmonth v | .rtcSetwday v | .rtcSetyear v =>
    decide (v < 2 ^ 32)
  | .rtcSetdt y mo dd wd hh mi ss => [y, mo, dd, wd, hh, mi, ss].all fun v => decide (v < 2 ^ 32)
  | .rtcWrram _ d => decide (d ≤ 255)
  | _ => true

/-- The row `REF_RAM_INDEX` of R236. -/
def ramIndexLegal (i : Instr) : Bool :=
  match i with
  | .rtcRdram idx | .rtcWrram idx _ => decide (idx ≤ 30)
  | _ => true

/-- The row `REF_UNBOUND` of R236: an `rtc.*` operation other than `rtc.bind`. -/
def needsBinding (i : Instr) : Bool :=
  match i with
  | .rtcBind _ _ _ => false
  | _ => !isDhtOp i

/-- The row `REF_PIN_DISTINCT` of R236. -/
def bindsEqualPins (i : Instr) : Bool :=
  match i with
  | .rtcBind a b c => decide (a = b ∨ a = c ∨ b = c)
  | _ => false

/-- The row `REF_PIN_SHARED` of R236. -/
def queriesBoundPin (i : Instr) (r : RtcEngine PinId) : Bool :=
  match i with
  | .dhtQuery p _ _ _ => decide (r.clkPin = some p ∨ r.dioPin = some p ∨ r.cePin = some p)
  | _ => false

/-- Why a host operation is refused, the first reason of R236's table that applies (R237), if any. -/
def refusalOf (i : Instr) (s : State) : Option OpRefusal :=
  if operandsLegal i = false then some .operand
  else if ramIndexLegal i = false then some .ramIndex
  else if needsBinding i = true ∧ (s.rtc.clkPin = none ∨ s.rtc.dioPin = none ∨ s.rtc.cePin = none) then some .unbound
  else if bindsEqualPins i = true then some .pinDistinct
  else if queriesBoundPin i s.rtc = true then some .pinShared
  else if (if isDhtOp i then s.dht.busy else s.rtc.busy) = true then some .busy
  else none

/-- The opcodes of R72 with the kinds of their operands (R71). -/
def operandShapes : List (Nat × List OperandKind) :=
  [(0x01, [.pin, .num, .num, .num]), (0x02, [.num]), (0x03, []), (0x04, []), (0x05, []), (0x06, [])] ++
  [(0x10, [.pin, .pin, .pin]), (0x11, []), (0x12, []), (0x13, []), (0x14, []), (0x15, []), (0x16, []), (0x17, [])] ++
  [(0x21, [.num]), (0x22, [.num]), (0x23, [.num]), (0x24, [.num]), (0x25, [.num]), (0x26, [.num]), (0x27, [.num])] ++
  [(0x30, [.num, .num, .num, .num, .num, .num, .num]), (0x31, []), (0x32, []), (0x40, [.num]), (0x41, [.num, .num])]

/-! ### Marks of the history -/

/-- A fault is recorded (R235). -/
def State.faultMarked (s : State) : Bool :=
  s.hist.any fun e => match e with
    | .faulted _ => true
    | _ => false

/-- A refusal is recorded (R236). -/
def State.refusalMarked (s : State) : Bool :=
  s.hist.any fun e => match e with
    | .refused _ => true
    | _ => false

/-- A good final state of a run. R235 says only that a state with a fault recorded is never one; that both engines must
be idle, and that a recorded refusal does no harm, is the model's choice (DESIGN CHOICE, log 28). -/
def State.goodFinal (s : State) : Bool := !s.faultMarked && !s.dht.busy && !s.rtc.busy

/-! ### Renaming of pins (00_scope.md R7; log 6) -/

section
variable {P Q : Type} (f : P → Q)

/-- An operand with its pin renamed. -/
def Operand.renamePins (x : Operand P) : Operand Q :=
  match x with
  | .pin p => .pin (f p)
  | .num n => .num n

/-- A request with its pins renamed. -/
def Request.renamePins (r : Request P) : Request Q := ⟨r.op, r.args.map (Operand.renamePins f)⟩

/-- A port event with its pin renamed. -/
def Event.renamePins (ev : Event P) : Event Q :=
  match ev with
  | .drive p v => .drive (f p) v
  | .release p up => .release (f p) up
  | .sample p v => .sample (f p) v
  | .delayMs n => .delayMs n
  | .delayUs n => .delayUs n
  | .now t => .now t
  | .emit r => .emit r

/-- An entry of the history with its pins renamed. -/
def Entry.renamePins (e : Entry P) : Entry Q :=
  match e with
  | .issue r => .issue (Request.renamePins f r)
  | .port g ev => .port g (Event.renamePins f ev)
  | .done g r => .done g r
  | .refused r => .refused r
  | .faulted x => .faulted x
  | .reset => .reset

/-- A port event of a micro-program with its pin renamed. -/
def RtcPrim.renamePins (p : RtcPrim P) : RtcPrim Q :=
  match p with
  | .drive pin v => .drive (f pin) v
  | .driveBit dio i => .driveBit (f dio) i
  | .clockLow clk n after => .clockLow (f clk) n after
  | .releaseDio dio => .releaseDio (f dio)
  | .sampleBit dio i => .sampleBit (f dio) i

/-- A step of a micro-program with its pin renamed. -/
def RtcMicro.renamePins (m : RtcMicro P) : RtcMicro Q :=
  match m with
  | .txnWrite cmd src => .txnWrite cmd src
  | .txnRead cmd => .txnRead cmd
  | .prim p => .prim (RtcPrim.renamePins f p)

/-- The DHT engine with its latched pin renamed. -/
def DhtEngine.renamePins (d : DhtEngine P) : DhtEngine Q :=
  ⟨d.hum, d.temp, d.csv, d.srsp, d.unit, f d.qPin, d.qVar, d.qPull, d.qDiag, d.frame, d.bitcnt, d.t0, d.t1,
    d.busy, d.upc⟩

/-- The RTC engine with the pins of its binding and of its micro-program renamed. -/
def RtcEngine.renamePins (r : RtcEngine P) : RtcEngine Q :=
  ⟨r.clkPin.map f, r.dioPin.map f, r.cePin.map f, r.sr, r.shcnt, r.raw, r.ret, r.busy,
    r.upc.map (RtcMicro.renamePins f)⟩

/-- `t` is `s` with every pin renamed by `f`; nothing is said of the drivers of pins that are no pin's new name. -/
structure State.PinsRenamed [DecidableEq P] [DecidableEq Q] (s : State P) (t : State Q) : Prop where
  dht       : t.dht = s.dht.renamePins f
  rtc       : t.rtc = s.rtc.renamePins f
  mode      : ∀ p, t.mode (f p) = s.mode p
  pull      : ∀ p, t.pull (f p) = s.pull p
  hist      : t.hist = s.hist.map (Entry.renamePins f)
  oracle    : t.oracle = s.oracle
  pending   : t.pending = s.pending.map (Request.renamePins f)
  turns     : t.turns = s.turns
  pollBound : t.pollBound = s.pollBound

end

/-! ### The machine's invariant -/

/-- A command byte that the engine may send (30_encoding.md R83): 0x80 to 0x8E, or 0xC0 to 0xFD. -/
def isEngineCommand (c : Byte) : Bool :=
  (decide (0x80 ≤ c.toNat) && decide (c.toNat ≤ 0x8E)) || (decide (0xC0 ≤ c.toNat) && decide (c.toNat ≤ 0xFD))

/-- A step that a micro-program may hold: its command byte is one of R83's, even for a write and odd for a read (R51),
and a clock pulse counts at most 8 bits (10_state.md R30). -/
def RtcMicro.legal (m : RtcMicro PinId) : Bool :=
  match m with
  | .txnWrite c _ => isEngineCommand c && !c.getLsbD 0
  | .txnRead c => isEngineCommand c && c.getLsbD 0
  | .prim (.clockLow _ n _) => decide (n ≤ 8)
  | .prim _ => true

/-- Whether a write transaction is the relock of R167. -/
def RtcMicro.isRelock (m : RtcMicro PinId) : Bool :=
  match m with
  | .txnWrite c src => c == 0x8E#8 && src == .imm 0x80#8
  | _ => false

/-- Whether a step opens a write transaction. -/
def RtcMicro.isWrite (m : RtcMicro PinId) : Bool :=
  match m with
  | .txnWrite _ _ => true
  | _ => false

/-- The last write transaction still to come, if there is one, is the relock (R167, R273). -/
def relocks (prog : List (RtcMicro PinId)) : Bool :=
  match (prog.filter RtcMicro.isWrite).getLast? with
  | none => true
  | some m => m.isRelock

/-- Every write transaction of the program belongs to a triple unlock, write, relock (R167). -/
def guardedProgram (prog : List (RtcMicro PinId)) : Bool :=
  match prog with
  | [] => true
  | .txnRead _ :: rest => guardedProgram rest
  | .prim _ :: rest => guardedProgram rest
  | .txnWrite c (.imm b) :: .txnWrite w _ :: m :: rest =>
    c == 0x8E#8 && b == 0x00#8 && w != 0x8E#8 && m.isRelock && guardedProgram rest
  | .txnWrite _ _ :: _ => false

/-- What holds of the DHT engine's flags and counters at each label of a running query (41_dht_sampler.md R120 to R139;
60_exceptions.md R230). -/
def DhtEngine.labelOk (d : DhtEngine PinId) (bound : Option Nat) : Prop :=
  match d.upc with
  | .readStart | .driveLow | .holdLow | .releaseLine | .holdRelease | .sampleResponse =>
    d.csv = false ∧ d.srsp = false ∧ d.bitcnt = 0 ∧ d.frame = 0#Config.nBits
  | .presenceLow _ | .presenceHigh _ => d.csv = false ∧ d.srsp = true ∧ d.bitcnt = 0 ∧ d.frame = 0#Config.nBits
  | .bitHigh k _ | .bitLow k _ | .bitDelay k | .bitSample k =>
    d.csv = false ∧ d.srsp = true ∧ d.bitcnt = k ∧ k < Config.nBits
  | .readEnd => d.csv = false ∧ d.srsp = true ∧ d.bitcnt = Config.nBits
  | .emit .ok e => d.csv = true ∧ d.srsp = true ∧ e.isSome ∧ d.hum.isSome
  | .emit .checksumMismatch e => d.csv = false ∧ d.srsp = true ∧ e.isSome ∧ d.hum.isSome
  | .emit .noResponse e => d.csv = false ∧ d.srsp = false ∧ e = none
  | .emit .timeout e => d.csv = false ∧ d.srsp = true ∧ e = none ∧ bound.isSome

/-- The binding is none, or three pairwise distinct pins (42_rtc_transactions.md R161, 10_state.md R34). -/
def RtcEngine.bindingOk (r : RtcEngine PinId) : Prop :=
  (r.clkPin = none ∧ r.dioPin = none ∧ r.cePin = none) ∨
    ∃ clk dio ce, r.clkPin = some clk ∧ r.dioPin = some dio ∧ r.cePin = some ce ∧ clk ≠ dio ∧ clk ≠ ce ∧ dio ≠ ce

/-- The invariant that every step keeps. -/
structure State.Inv (s : State) : Prop where
  /-- `MODE` and `PULLM` list each pin once, with no default entry (log 17). -/
  modesOk : PinTable.wf .input s.modes
  pullsOk : PinTable.wf .off s.pulls
  /-- The binding is none or three distinct pins (R161). -/
  binding : s.rtc.bindingOk
  /-- A busy RTC engine is bound (R172; before `rtc.bind`'s first event, log 29) and has a port event to perform; an
  idle one has none (R24). -/
  rtcBusy : s.rtc.busy = true → s.rtc.lines.isSome ∧ s.rtc.upc ≠ []
  rtcIdle : s.rtc.busy = false → s.rtc.upc = []
  /-- Only the command bytes of R83 are to be sent. -/
  commands : ∀ m ∈ s.rtc.upc, m.legal = true
  /-- Writes still to come end in the relock (R273). -/
  relock : relocks s.rtc.upc = true
  /-- The counters stay in their ranges (R27, R30). -/
  shcntOk : s.rtc.shcnt ≤ 8
  bitcntOk : s.dht.bitcnt ≤ Config.nBits
  /-- Humidity and temperature are published together (R136). -/
  results : s.dht.hum.isSome = s.dht.temp.isSome
  /-- A valid checksum implies that the sensor answered (R230). -/
  flags : s.dht.csv = true → s.dht.srsp = true
  /-- The running query's flags and counters agree with its label. -/
  label : s.dht.busy = true → s.dht.labelOk s.pollBound

end Sys2Proof.Machine
end

