-- ==== Sys2Proof/Certificates/Slice0/Obligations.lean ====
section
/-! DEFINITION. The statements about the model, from the numbered rules of the spec. -/

open Sys2Proof Sys2Proof.Machine

/-! ### Encoding -/

/-- Decoding the code of a well-formed instruction gives the instruction back (30_encoding.md R70, R72; 20_memory.md
R52). -/
def Obligations.DecodeOfEncode : Prop := ∀ i : Instr, WellFormed i → decode (encode i) = .ok i

/-- A code that decodes is the code of the instruction it decodes to: no code has a second spelling (R72; R52). -/
def Obligations.EncodeOfDecode : Prop := ∀ (c : Code PinId) (i : Instr), decode c = .ok i → encode i = c

/-- A reserved opcode of 30_encoding.md R73 is refused as `REF_BAD_OPCODE`: no port event, the reason recorded, nothing
else changed (R236, R110). That the issue of a request which spells no operation is recorded too is log 23 (DEDUCED),
and that the request is taken from a list of requests is log 12 (DESIGN CHOICE). -/
def Obligations.ReservedOpcodesRefused : Prop :=
  ∀ (s : State) (r : Request PinId) (rest : List (Request PinId)), s.pending = r :: rest →
    (r.op.toNat = 0x00 ∨ (0x07 ≤ r.op.toNat ∧ r.op.toNat ≤ 0x0F) ∨ (0x18 ≤ r.op.toNat ∧ r.op.toNat ≤ 0x20) ∨
      (0x28 ≤ r.op.toNat ∧ r.op.toNat ≤ 0x2F) ∨ (0x33 ≤ r.op.toNat ∧ r.op.toNat ≤ 0x3F) ∨
      (0x42 ≤ r.op.toNat ∧ r.op.toNat ≤ 0xFF)) →
    stepHost exec s = .next (((s.setPending rest).log (.issue r)).log (.refused .badOpcode))

/-- Which bytes are wire commands (R52): even ones for a write, odd ones for a read, from 0x80 to 0x8F and from 0xC0 to
0xFD; every other byte, and every byte with the other direction, is rejected by name. -/
def Obligations.WireCommandMap : Prop :=
  ∀ c d : Byte,
    ((∃ i : Instr, decodeWireWrite c d = .ok i) ↔
      (c.toNat % 2 = 0 ∧ ((0x80 ≤ c.toNat ∧ c.toNat ≤ 0x8F) ∨ (0xC0 ≤ c.toNat ∧ c.toNat ≤ 0xFD)))) ∧
    ((∃ i : Instr, decodeWireRead c = .ok i) ↔
      (c.toNat % 2 = 1 ∧ ((0x80 ≤ c.toNat ∧ c.toNat ≤ 0x8F) ∨ (0xC0 ≤ c.toNat ∧ c.toNat ≤ 0xFD)))) ∧
    ((∀ i : Instr, decodeWireWrite c d ≠ .ok i) →
      decodeWireWrite (Pin := PinId) c d = .error .unmappedCommand) ∧
    ((∀ i : Instr, decodeWireRead c ≠ .ok i) →
      decodeWireRead (Pin := PinId) c = .error .unmappedCommand)

/-- Some words of the spec decode to what they stand for: opcodes of R72, command bytes of R52. -/
def Obligations.SpecWordsDecode : Prop :=
  decode (.host ⟨0b00000001#8, [.pin 0, .num 0, .num 1, .num 0]⟩) = .ok (.dhtQuery 0 0 1 0 : Instr) ∧
  decode (.host ⟨0b00010000#8, [.pin 13, .pin 14, .pin 15]⟩) = .ok (.rtcBind 13 14 15 : Instr) ∧
  decode (.host ⟨0b00100111#8, [.num 2024]⟩) = .ok (.rtcSetyear 2024 : Instr) ∧
  decode (.host ⟨0b01000001#8, [.num 5, .num 0xA7]⟩) = .ok (.rtcWrram 5 0xA7 : Instr) ∧
  decode (.wireWrite 0b10001110#8 0x00#8) = .ok (.ds1302WriteWp 0x00#8 : Instr) ∧
  decode (.wireRead 0b10001101#8) = .ok (.ds1302ReadYear : Instr) ∧
  decode (.wireWrite 0b11001010#8 0xA7#8) = .ok (.ds1302WriteRam 5 0xA7#8 : Instr)

/-! ### Steps -/

/-- A step in which the host moves runs the host's next request: the turn is taken, the request leaves the host and its
issue is recorded, and then the step is `exec` of the instruction that the request decodes to (40_port_primitives.md
R112, R110). That the request is taken from a list of requests is the model's choice (log 12), and so is that the move
takes a turn (log 10); that the issue is recorded before anything else, also of a request that is then refused, is
log 23 (DEDUCED). -/
def Obligations.StepRunsHostRequest : Prop :=
  ∀ (s : State) (r : Request PinId) (rest : List (Request PinId)) (i : Instr), s.mover = .host → s.pending = r :: rest →
    decode (.host r) = .ok i →
    step s = exec i ((s.takeTurn.setPending rest).log (.issue r))

/-- A step in which a busy RTC engine stands before a transaction runs its wire command: the turn is taken, the
transaction leaves the micro-program, and the step is `exec` of the wire command (30_encoding.md R74;
40_port_primitives.md R111). That a transaction's first event fetches a wire command is the model's reading (log 3);
that the move takes a turn is the model's choice (log 10). -/
def Obligations.StepRunsWireCommand : Prop :=
  (∀ (s : State) (cmd : Byte) (src : ByteSource) (rest : List (RtcMicro PinId)) (i : Instr), s.mover = .rtc →
    s.rtc.busy = true → s.rtc.upc = .txnWrite cmd src :: rest →
    decode (.wireWrite cmd (src.value s.rtc.raw)) = .ok i →
    step s = exec i (s.takeTurn.setRtcUpc rest)) ∧
  (∀ (s : State) (cmd : Byte) (rest : List (RtcMicro PinId)) (i : Instr), s.mover = .rtc → s.rtc.busy = true →
    s.rtc.upc = .txnRead cmd :: rest → decode (.wireRead cmd) = .ok i →
    step s = exec i (s.takeTurn.setRtcUpc rest))

/-- A step in which a busy engine moves is that engine's micro-step (40_port_primitives.md R111); an idle engine's turn
and a host with nothing to ask change nothing but the turns (the model's choice, log 10 and log 12). -/
def Obligations.StepMovesOneAgent : Prop :=
  ∀ s : State,
    (s.mover = .dht → s.dht.busy = true → step s = .next (dhtMicroStep s.takeTurn)) ∧
    (s.mover = .rtc → s.rtc.busy = true → step s = rtcMicroStep exec s.takeTurn) ∧
    (s.mover = .dht → s.dht.busy = false → step s = .next s.takeTurn) ∧
    (s.mover = .rtc → s.rtc.busy = false → step s = .next s.takeTurn) ∧
    (s.mover = .host → s.pending = [] → step s = .next s.takeTurn)

/-- R260: the reset event sets every register to its reset value, ends the operations that run, makes every pin an
unpulled input, keeps the history and records the reset; and the machine right after reset has the same values. -/
def Obligations.ResetLeavesResetValues : Prop :=
  (∀ s : State, s.mover = .reset → ∃ u, step s = .next u ∧
    u.dht.hum = none ∧ u.dht.temp = none ∧ u.dht.csv = false ∧ u.dht.srsp = false ∧ u.dht.unit = .celsius ∧
    u.dht.frame = 0#40 ∧ u.dht.bitcnt = 0 ∧ u.dht.busy = false ∧ u.rtc.sr = 0#8 ∧ u.rtc.shcnt = 0 ∧
    u.rtc.busy = false ∧ u.rtc.clkPin = none ∧ u.rtc.dioPin = none ∧ u.rtc.cePin = none ∧
    (∀ p, u.mode p = .input ∧ u.pull p = .off) ∧ u.hist = s.hist ++ [.reset]) ∧
  State.reset.dht.hum = none ∧ State.reset.dht.temp = none ∧ State.reset.dht.csv = false ∧
  State.reset.dht.srsp = false ∧ State.reset.dht.unit = .celsius ∧ State.reset.dht.frame = 0#40 ∧
  State.reset.dht.bitcnt = 0 ∧ State.reset.dht.busy = false ∧ State.reset.rtc.sr = 0#8 ∧ State.reset.rtc.shcnt = 0 ∧
  State.reset.rtc.busy = false ∧ State.reset.rtc.clkPin = none ∧ State.reset.rtc.dioPin = none ∧
  State.reset.rtc.cePin = none ∧ ∀ p, State.reset.mode p = .input ∧ State.reset.pull p = .off

/-! ### Invariants and whole-machine rules -/

/-- The invariant holds at reset. That an idle RTC engine has no events left is the model's form of `UPC` (log 4, log
11). -/
def Obligations.InvariantAtReset : Prop := State.reset.Inv

/-- Every step from a state with the invariant leads to a state with the invariant. That an idle RTC engine has no
events left is the model's form of `UPC` (log 4); that a busy one is bound, and that the flags are clear, before an
operation's first event too, is the model's choice (log 29). -/
def Obligations.StepKeepsInvariant : Prop := ∀ s t : State, s.Inv → step s = .next t → t.Inv

/-- From a state with the invariant the machine never stops: every step answers a next state, no fault and no refusal
of the model's own. The spec's own fault and refusals are recorded and the run goes on (log 1). -/
def Obligations.StepAlwaysNext : Prop := ∀ s : State, s.Inv → ∃ t, step s = .next t

/-- R110: the machine writes the history and reads it never. A step only appends to it, and with any other history in
its place it makes the same move and appends the same entries. -/
def Obligations.StepNeverReadsHistory : Prop :=
  ∀ (s t : State) (h : List (Entry PinId)), step s = .next t →
    ∃ new, t.hist = s.hist ++ new ∧ step { s with hist := h } = .next { t with hist := h ++ new }

/-- R111: a step of one engine never reads or writes the other's registers. The DHT engine's step leaves the RTC engine
and is the same beside any other RTC engine, and the other way round. -/
def Obligations.EnginesAreIndependent : Prop :=
  (∀ (s : State) (r : RtcEngine PinId), (dhtMicroStep s).rtc = s.rtc ∧
    dhtMicroStep (s.setRtc r) = (dhtMicroStep s).setRtc r) ∧
  (∀ (s t : State) (d : DhtEngine PinId), rtcMicroStep exec s = .next t → t.dht = s.dht ∧
    rtcMicroStep exec (s.setDht d) = .next (t.setDht d))

/-- R111: a micro-step of an engine records exactly one port event of that engine, and after it at most the completion
of its operation, which is recorded exactly when the step sets `BUSY` to 0. -/
def Obligations.MicroStepIsOneEvent : Prop :=
  (∀ s : State, s.dht.busy = true → ∃ ev,
    ((dhtMicroStep s).dht.busy = true ∧ (dhtMicroStep s).hist = s.hist ++ [.port .dht ev]) ∨
    ((dhtMicroStep s).dht.busy = false ∧ ∃ r, (dhtMicroStep s).hist = s.hist ++ [.port .dht ev, .done .dht r])) ∧
  (∀ s t : State, s.Inv → s.rtc.busy = true → rtcMicroStep exec s = .next t → ∃ ev,
    (t.rtc.busy = true ∧ t.hist = s.hist ++ [.port .rtc ev]) ∨
    (t.rtc.busy = false ∧ ∃ r, t.hist = s.hist ++ [.port .rtc ev, .done .rtc r]))

/-- R115: an operation in progress cannot be aborted. A step in which the host or the other engine moves leaves every
register of a busy engine as it was; and when a step makes a busy engine idle, either it is the reset, or it performed
the engine's own last port event and the operation's completion is recorded. -/
def Obligations.NoCancellation : Prop :=
  ∀ s t : State, step s = .next t →
    (s.dht.busy = true → s.mover = .host ∨ s.mover = .rtc → t.dht = s.dht) ∧
    (s.rtc.busy = true → s.mover = .host ∨ s.mover = .dht → t.rtc = s.rtc) ∧
    (s.dht.busy = true → t.dht.busy = false →
      s.mover = .reset ∨ ∃ ev r, t.hist = s.hist ++ [.port .dht ev, .done .dht r]) ∧
    (s.Inv → s.rtc.busy = true → t.rtc.busy = false →
      s.mover = .reset ∨ ∃ ev r, t.hist = s.hist ++ [.port .rtc ev, .done .rtc r])

/-- R33, R21, R22: no operation other than `dht.query` and no step of the RTC engine writes a flag or a result register;
and R25, R34: only `dht.unit` writes the unit, so a query leaves it when it is issued and in each of its micro-steps.
(The reset writes them all, R260.) -/
def Obligations.OnlyQueryWritesFlags : Prop :=
  (∀ (i : Instr) (s t : State), (∀ p v l d, i ≠ .dhtQuery p v l d) → exec i s = .next t →
    t.dht.csv = s.dht.csv ∧ t.dht.srsp = s.dht.srsp ∧ t.dht.hum = s.dht.hum ∧ t.dht.temp = s.dht.temp ∧
      ((∀ u, i ≠ .dhtUnit u) → t.dht = s.dht)) ∧
  (∀ (p : PinId) (v l d : Nat) (s t : State), exec (.dhtQuery p v l d) s = .next t → t.dht.unit = s.dht.unit) ∧
  (∀ s : State, (dhtMicroStep s).dht.unit = s.dht.unit) ∧
  (∀ s t : State, stepRtc exec s = .next t → t.dht = s.dht)

/-- R167, R273: every micro-program that a host operation loads writes only by triples unlock, write, relock, so it ends
relocked. -/
def Obligations.HostProgramsRelock : Prop :=
  ∀ (i : Instr) (s t : State), isHostOp i = true → s.rtc.busy = false → s.rtc.upc = [] → exec i s = .next t →
    guardedProgram t.rtc.upc = true ∧ relocks t.rtc.upc = true

/-! ### Admission, refusals, faults -/

/-- R236, R237: a host operation is refused for the first reason of the table that applies; then the reason is recorded
and nothing else changes. When none applies it is not refused. The refusal mark stays through every step. -/
def Obligations.RefusalsByTheTable : Prop :=
  (∀ (i : Instr) (s : State), isHostOp i = true →
    (∀ r, refusalOf i s = some r → exec i s = .next (s.log (.refused r))) ∧
    (refusalOf i s = none → ∃ t, exec i s = .next t ∧ t.refusalMarked = s.refusalMarked)) ∧
  ∀ s t : State, step s = .next t → s.refusalMarked = true → t.refusalMarked = true

/-- What the issue of a host operation leaves as it was: the pin drivers, the inputs of the model, the other engine, the
shift registers, and the binding unless the operation is `rtc.bind`; the history only gets the refusal, the fault or the
completion. -/
def Obligations.IssueFrame : Prop :=
  ∀ (i : Instr) (s t : State), isHostOp i = true → exec i s = .next t →
    t.modes = s.modes ∧ t.pulls = s.pulls ∧ t.oracle = s.oracle ∧ t.pending = s.pending ∧ t.turns = s.turns ∧
    t.pollBound = s.pollBound ∧ (isDhtOp i = true → t.rtc = s.rtc) ∧ (isDhtOp i = false → t.dht = s.dht) ∧
    t.rtc.sr = s.rtc.sr ∧ t.rtc.shcnt = s.rtc.shcnt ∧ t.rtc.raw = s.rtc.raw ∧
    ((∀ a b c, i ≠ .rtcBind a b c) → t.rtc.clkPin = s.rtc.clkPin ∧ t.rtc.dioPin = s.rtc.dioPin ∧
      t.rtc.cePin = s.rtc.cePin) ∧
    (t.hist = s.hist ∨ ∃ e, t.hist = s.hist ++ [e] ∧ ∀ g ev, e ≠ .port g ev)

/-- R235: reading a result register that holds no value records the fault, and changes and returns nothing; that is the
only fault: a step that records the first one is the host's read of such a register; the mark stays through every step,
and a state that has it is never a good final state. (What else `goodFinal` asks for is the model's choice, log 28; the
statement does not rest on it.) -/
def Obligations.ReadUnsetIsTheOnlyFault : Prop :=
  (∀ s : State, s.dht.busy = false →
    (s.dht.hum = none → exec .dhtRdh s = .next (s.log (.faulted .readUnset))) ∧
    (s.dht.temp = none → exec .dhtRdt s = .next (s.log (.faulted .readUnset)))) ∧
  (∀ s t : State, step s = .next t → s.faultMarked = false → t.faultMarked = true →
    s.mover = .host ∧ s.dht.busy = false ∧ ∃ r rest, s.pending = r :: rest ∧
      ((decode (.host r) = .ok .dhtRdh ∧ s.dht.hum = none) ∨ (decode (.host r) = .ok .dhtRdt ∧ s.dht.temp = none))) ∧
  ∀ s t : State, step s = .next t → s.faultMarked = true → t.faultMarked = true ∧ t.goodFinal = false

/-! ### DHT operations -/

/-- R141 to R144: with the engine busy the reads are refused; with it idle they complete at issue and return the
register, `HUM` and `TEMP` faulting when they hold no value and the flags never; nothing else changes. -/
def Obligations.ResultReadsReturn : Prop :=
  (∀ s : State, s.dht.busy = true → ∀ i : Instr, i = .dhtRdh ∨ i = .dhtRdt ∨ i = .dhtRdcs ∨ i = .dhtRdsr →
    exec i s = .next (s.log (.refused .busy))) ∧
  ∀ s : State, s.dht.busy = false →
    (∀ m, s.dht.hum = some m → exec .dhtRdh s = .next (s.log (.done .dht (.value m)))) ∧
    (s.dht.hum = none → exec .dhtRdh s = .next (s.log (.faulted .readUnset))) ∧
    (∀ m, s.dht.temp = some m → exec .dhtRdt s = .next (s.log (.done .dht (.value m)))) ∧
    (s.dht.temp = none → exec .dhtRdt s = .next (s.log (.faulted .readUnset))) ∧
    exec .dhtRdcs s = .next (s.log (.done .dht (.flag s.dht.csv))) ∧
    exec .dhtRdsr s = .next (s.log (.done .dht (.flag s.dht.srsp)))

/-- R140: `dht.unit` with a legal operand on an idle engine sets the unit and completes at issue; a `TEMP` already held,
and all else, stays. Another operand is refused, and so is any on a busy engine. -/
def Obligations.UnitIsSet : Prop :=
  ∀ (s : State) (u : Nat),
    (2 ≤ u → exec (.dhtUnit u) s = .next (s.log (.refused .operand))) ∧
    (u < 2 → s.dht.busy = true → exec (.dhtUnit u) s = .next (s.log (.refused .busy))) ∧
    (u < 2 → s.dht.busy = false → exec (.dhtUnit u) s = .next { s with
      dht := { s.dht with unit := if u = 0 then .celsius else .fahrenheit },
      hist := s.hist ++ [.done .dht .nothing] })

/-- R122, R112: an admitted query latches its operands, clears both flags, every bit of `FRAME` and `BITCNT`, and starts
the engine; `HUM`, `TEMP` and `UNIT` and all else stay; no event is recorded by the issue. That the clearing belongs to
the issue step is the model's choice (log 29). -/
def Obligations.QueryStarts : Prop :=
  ∀ (s : State) (pin var pull diag : Nat), s.dht.busy = false → s.rtc.clkPin ≠ some pin → s.rtc.dioPin ≠ some pin →
    s.rtc.cePin ≠ some pin → var < 2 → pull < 2 → diag < 2 →
    exec (.dhtQuery pin var pull diag) s = .next { s with
      dht := { s.dht with
        csv := false, srsp := false, frame := 0#40, bitcnt := 0, qPin := pin,
        qVar := if var = 0 then .dht11 else .dht22, qPull := decide (pull = 1), qDiag := decide (diag = 1),
        busy := true, upc := .readStart } }

/-- R124, R231, R137, R138: when the response sample answers 1 the query ends with `NO_RESPONSE` after six events,
and the diagnostic event if `DIAG` is 1; `SRSP` and `CSV` are 0 and `HUM` and `TEMP` are as they were. With no turns
listed nothing else moves meanwhile (the model's choice, log 10). -/
def Obligations.QueryWithoutResponse : Prop :=
  ∀ (s : State) (pin var pull diag : Nat), s.dhtAlone → s.rtc.owns pin = false → var < 2 → pull < 2 → diag < 2 →
    s.oracle.dropClock.level 0 = true →
    ∃ t u, exec (.dhtQuery pin var pull diag) s = .next t ∧ steps (6 + diag) t = .next u ∧ u.dht.busy = false ∧
      u.dht.srsp = false ∧ u.dht.csv = false ∧ u.dht.hum = s.dht.hum ∧ u.dht.temp = s.dht.temp ∧
      u.dht.unit = s.dht.unit ∧ u.dht.frame = 0#40 ∧ u.dht.bitcnt = 0 ∧
      u.hist = s.hist ++ entriesOf .dht (startEvents pin (decide (pull = 1)) s.oracle.clock true ++
        (if diag = 1 then [.emit ⟨.noResponse, none, false, s.dht.hum, s.dht.temp⟩] else [])) ++
        [.done .dht (.reading ⟨s.dht.hum, s.dht.temp, false, false, .noResponse⟩)] ∧
      s.queryFrame u pin (decide (pull = 1))

/-- R120 with R122 to R138: against a sensor that answers and sends the frame `f`, the `j`-th of the 82 waits seeing
the waited level `w j` times (fewer than the bound, if one is given), the query ends after its 169 events and the
waits' repeated samples, and the diagnostic event if `DIAG` is 1. `HUM` and `TEMP` are the values decoded from the
frame for the variant and the unit, whether or not the checksum holds (R131); `CSV` says whether it holds, `SRSP` is
1, and the status is `OK` or `CHECKSUM_MISMATCH`. With no turns listed nothing else moves meanwhile (the model's
choice, log 10). -/
def Obligations.QueryOfFullFrame : Prop :=
  ∀ (s : State) (pin var pull diag : Nat) (f : Frame) (w : Nat → Nat) (rest : List Level), s.dhtAlone →
    s.rtc.owns pin = false → var < 2 → pull < 2 → diag < 2 → s.oracle.levels = frameAnswers f w ++ rest →
    (∀ b, s.pollBound = some b → ∀ j, j < 82 → w j = 0 ∨ w j < b) →
    let b := pack f
    let v := decodeFrame (if var = 0 then .dht11 else .dht22) b
    let valid := decide (b.b4 = (b.b0 + b.b1 + b.b2 + b.b3) % 256)
    let status : Status := if valid then .ok else .checksumMismatch
    let t₀ := s.oracle.clock
    let t₁ := (s.oracle.dropClock.dropLevels (123 + waited w 82)).clock
    let temp := applyUnit s.dht.unit v.2
    ∃ t u, exec (.dhtQuery pin var pull diag) s = .next t ∧ steps (169 + waited w 82 + diag) t = .next u ∧
      u.dht.busy = false ∧ u.dht.hum = some v.1 ∧ u.dht.temp = some temp ∧ u.dht.csv = valid ∧ u.dht.srsp = true ∧
      u.dht.unit = s.dht.unit ∧ u.dht.frame = f ∧ u.dht.bitcnt = 40 ∧ u.dht.t0 = t₀ ∧ u.dht.t1 = t₁ ∧
      u.oracle.levels = rest ∧
      u.hist = s.hist ++ entriesOf .dht (frameEvents pin (decide (pull = 1)) t₀ t₁ f w ++
        (if diag = 1 then [.emit ⟨status, some (t₁ - t₀), valid, some v.1, some temp⟩] else [])) ++
        [.done .dht (.reading ⟨some v.1, some temp, valid, true, status⟩)] ∧
      s.queryFrame u pin (decide (pull = 1))

/-- R108, R125, R126: a wait that sees the waited-for level `n` times and then the other one takes `n + 1` samples
and goes on, writing nothing else, provided that no bound was reached before. With no turns listed nothing else moves
meanwhile (the model's choice, log 10). -/
def Obligations.WaitEnds : Prop :=
  ∀ (s : State) (label : Nat → DhtLabel) (v : Level) (next : DhtLabel) (n : Nat), WaitAt label v next →
    s.dht.busy = true → s.unscheduled → s.dht.upc = label 0 → (∀ j, j < n → s.coming j = v) → s.coming n = !v →
    (∀ b, s.pollBound = some b → n = 0 ∨ n < b) →
    steps (n + 1) s = .next { s with
      dht := { s.dht with upc := next }, oracle := s.oracle.dropLevels (n + 1),
      hist := s.hist ++ entriesOf .dht (samplesOf s.dht.qPin v n ++ [.sample s.dht.qPin (!v)]) }

/-- R139, R234, R108: with `POLL_BOUND` = `some b`, a wait that sees the waited-for level `max b 1` times in a row
ends the query with `TIMEOUT`: `SRSP`, `CSV`, `HUM`, `TEMP` and `FRAME` are as they were, no `Now` is taken, and the
elapsed time of the diagnostic event is none. With no turns listed nothing else moves meanwhile (the model's choice,
log 10). -/
def Obligations.WaitTimesOut : Prop :=
  ∀ (s : State) (label : Nat → DhtLabel) (v : Level) (next : DhtLabel) (b : Nat), WaitAt label v next →
    s.dht.busy = true → s.unscheduled → s.dht.upc = label 0 → s.pollBound = some b →
    (∀ j, j < max b 1 → s.coming j = v) →
    ∃ u, steps (max b 1 + s.dht.qDiag.toNat) s = .next u ∧
      u.dht = { s.dht with busy := false, upc := u.dht.upc } ∧ u.oracle = s.oracle.dropLevels (max b 1) ∧
      u.hist = s.hist ++ entriesOf .dht (samplesOf s.dht.qPin v (max b 1) ++
        (if s.dht.qDiag then [.emit ⟨.timeout, none, s.dht.csv, s.dht.hum, s.dht.temp⟩] else [])) ++
        [.done .dht (.reading ⟨s.dht.hum, s.dht.temp, s.dht.csv, s.dht.srsp, .timeout⟩)] ∧
      u.rtc = s.rtc ∧ u.modes = s.modes ∧ u.pulls = s.pulls ∧ u.pending = s.pending ∧ u.turns = s.turns ∧
      u.pollBound = s.pollBound

/-- R270, R108: with no bound, a wait does not end while its level does not change: after `n` samples of the waited
level, for any number `n`, the engine is busy at the same wait and has only recorded `n` samples. With no turns
listed nothing else moves meanwhile (the model's choice, log 10). -/
def Obligations.WaitHangs : Prop :=
  ∀ (s : State) (label : Nat → DhtLabel) (v : Level) (next : DhtLabel) (n : Nat), WaitAt label v next →
    s.dht.busy = true → s.unscheduled → s.dht.upc = label 0 → s.pollBound = none → (∀ j, j < n → s.coming j = v) →
    steps n s = .next { s with
      dht := { s.dht with upc := label n }, oracle := s.oracle.dropLevels n,
      hist := s.hist ++ entriesOf .dht (samplesOf s.dht.qPin v n) }

/-! ### Frames and values -/

/-- R77: each byte of a frame is below 256, and its bit 7 - i is `FRAME[8·j + i]`. -/
def Obligations.FrameByteBits : Prop :=
  ∀ (f : Frame) (j : Nat), j < 5 →
    frameByte f j < 256 ∧ ∀ i, i < 8 → (frameByte f j).testBit (7 - i) = f.getLsbD (8 * j + i)

/-- R126: sampling bit k writes that bit of the frame and no other. -/
def Obligations.FrameBitWritten : Prop :=
  ∀ (f : Frame) (k j : Nat) (v : Bool), k < 40 → j < 40 →
    (setFrameBit f k v).getLsbD j = if j = k then v else f.getLsbD j

/-- R129 and 90_conflicts.md C6: when the frame ends `CSV` is set to whether the last byte is the sum of the four
others modulo 256; for every frame that is the document's iterative subtraction, 512 first and then 256. (That the
two agree is the spec's inference, `[derived: from the bound 4·255 = 1020]`.) -/
def Obligations.ChecksumBySubtraction : Prop :=
  ∀ (d : DhtEngine PinId) (c : Clock),
    let b := pack d.frame
    let sum := b.b0 + b.b1 + b.b2 + b.b3
    let less := if 512 ≤ sum then sum - 512 else sum
    let low := if 256 ≤ less then less - 256 else less
    (d.publish c).csv = decide (b.b4 = sum % 256) ∧ sum ≤ 1020 ∧ low = sum % 256

/-- R133: the DHT11 decode as exact rationals, and its range, for bytes. -/
def Obligations.Dht11DecodeExact : Prop :=
  ∀ b : FrameBytes, b.b0 < 256 → b.b1 < 256 → b.b2 < 256 → b.b3 < 256 →
    ((decode11 b).1 : ℚ) / 1000 = (b.b0 : ℚ) + (b.b1 : ℚ) / 100 ∧
    ((decode11 b).2 : ℚ) / 1000 = (b.b2 : ℚ) + (b.b3 : ℚ) / 100 ∧
    0 ≤ (decode11 b).1 ∧ (decode11 b).1 ≤ 257550 ∧ 0 ≤ (decode11 b).2 ∧ (decode11 b).2 ≤ 257550

/-- R134, R78, R79: the DHT22 decode as exact rationals, and its range, for bytes: the humidity is unsigned, the
temperature is a sign and a magnitude, never two's complement. -/
def Obligations.Dht22DecodeExact : Prop :=
  ∀ b : FrameBytes, b.b0 < 256 → b.b1 < 256 → b.b2 < 256 → b.b3 < 256 →
    ((decode22 b).1 : ℚ) / 1000 = ((b.b0 : ℚ) * 256 + (b.b1 : ℚ)) / 10 ∧
    (b.b2 < 128 → ((decode22 b).2 : ℚ) / 1000 = ((b.b2 : ℚ) * 256 + (b.b3 : ℚ)) / 10) ∧
    (128 ≤ b.b2 → ((decode22 b).2 : ℚ) / 1000 = -((((b.b2 : ℚ) - 128) * 256 + (b.b3 : ℚ)) / 10)) ∧
    0 ≤ (decode22 b).1 ∧ (decode22 b).1 ≤ 6553500 ∧ -3276700 ≤ (decode22 b).2 ∧ (decode22 b).2 ≤ 3276700

/-- R135: the published temperature is `tc`, or `tc · 9 ÷ 5 + 32` exactly in Fahrenheit, for the `tc` of either variant;
the published humidity does not depend on the unit. -/
def Obligations.UnitConversionExact : Prop :=
  ∀ (d : DhtEngine PinId) (c : Clock),
    let v := decodeFrame d.qVar (pack d.frame)
    (d.unit = .celsius → (d.publish c).temp = some v.2) ∧
    (d.unit = .fahrenheit → ∃ m, (d.publish c).temp = some m ∧ (m : ℚ) / 1000 = (v.2 : ℚ) / 1000 * 9 / 5 + 32) ∧
    (d.publish c).hum = some v.1

/-! ### Pins -/

/-- R101, R102, R31: `Drive` writes the mode of its pin, `Release` makes it an input and configures the pull-up only
when asked; every other pin, and everything but the pin drivers and the history, stays. That a pull-up configured
earlier stays is the spec's decision D36. -/
def Obligations.PinPrimitives : Prop :=
  ∀ (s : State) (e : Engine) (p q : PinId) (v up : Bool),
    (s.drive e p v).mode q = (if q = p then (if v then .out1 else .out0) else s.mode q) ∧
    (s.drive e p v).pull q = s.pull q ∧
    (s.drive e p v).hist = s.hist ++ [.port e (.drive p v)] ∧
    (s.release e p up).mode q = (if q = p then .input else s.mode q) ∧
    (s.release e p up).pull q = (if q = p ∧ up = true then .up else s.pull q) ∧
    (s.release e p up).hist = s.hist ++ [.port e (.release p up)] ∧
    (∃ m h, s.drive e p v = { s with modes := m, hist := h }) ∧
    ∃ m l h, s.release e p up = { s with modes := m, pulls := l, hist := h }

/-! ### RTC operations -/

/-- R161: `rtc.bind` of three distinct pins on an idle engine writes the binding, then drives `CE` low and `CLK` low,
two steps; the other pins and registers stay. With no turns listed nothing else moves meanwhile (the model's choice,
log 10). -/
def Obligations.BindDrivesIdleLevels : Prop :=
  ∀ (s : State) (clk dio ce : PinId), s.dhtAlone → clk ≠ dio → clk ≠ ce → dio ≠ ce →
    ∃ t u, exec (.rtcBind clk dio ce) s = .next t ∧ t = s.setRtc t.rtc ∧ t.rtc.busy = true ∧ steps 2 t = .next u ∧
      u.rtc = { s.rtc with clkPin := some clk, dioPin := some dio, cePin := some ce, ret := .nothing, upc := [] } ∧
      u.hist = s.hist ++ entriesOf .rtc [.drive ce false, .drive clk false] ++ [.done .rtc .nothing] ∧
      (∀ q, u.mode q = if q = clk ∨ q = ce then .out0 else s.mode q) ∧
      u.dht = s.dht ∧ u.pulls = s.pulls ∧ u.oracle = s.oracle ∧ u.pending = s.pending ∧ u.turns = s.turns ∧
      u.pollBound = s.pollBound

/-- R165, R163, R173, R52: each read command of the map, executed inside a running operation, runs its 51 events: the
command bit 0 first, the data line released, eight samples; the byte is that of the samples, bit 0 first, and it is
left in `SR`. That `exec` of the command is the transaction's first event is the model's reading (log 3); with no
turns listed nothing else moves meanwhile (log 10). -/
def Obligations.WireReadsComplete : Prop :=
  ∀ (s : State) (clk dio ce : PinId), s.rtcRunning clk dio ce →
    let d := sampledByte s.coming
    let reads := fun (i : Instr) (c : Byte) =>
      s.txnCompletes clk dio ce i c 50 (readEvents clk dio ce c s.coming) 8 d d .input
    reads .ds1302ReadSec 0x81#8 ∧ reads .ds1302ReadMin 0x83#8 ∧ reads .ds1302ReadHour 0x85#8 ∧
    reads .ds1302ReadDate 0x87#8 ∧ reads .ds1302ReadMonth 0x89#8 ∧ reads .ds1302ReadWday 0x8B#8 ∧
    reads .ds1302ReadYear 0x8D#8 ∧ reads .ds1302ReadWp 0x8F#8 ∧
    ∀ idx, idx ≤ 30 → reads (.ds1302ReadRam idx) (BitVec.ofNat 8 (0xC1 + 2 * idx))

/-- R166, R162, R173, R52: each write command of the map, executed inside a running operation, runs its 50 events:
the command and then the data byte, bit 0 first; the data line is left driven with bit 7 of the data byte. That
`exec` of the command is the transaction's first event is the model's reading (log 3); with no turns listed nothing
else moves meanwhile (log 10). -/
def Obligations.WireWritesComplete : Prop :=
  ∀ (s : State) (clk dio ce : PinId) (b : Byte), s.rtcRunning clk dio ce →
    let writes := fun (i : Instr) (c : Byte) =>
      s.txnCompletes clk dio ce i c 49 (writeEvents clk dio ce c b) 0 b s.rtc.raw (if b.getLsbD 7 then .out1 else .out0)
    writes (.ds1302WriteSec b) 0x80#8 ∧ writes (.ds1302WriteMin b) 0x82#8 ∧ writes (.ds1302WriteHour b) 0x84#8 ∧
    writes (.ds1302WriteDate b) 0x86#8 ∧ writes (.ds1302WriteMonth b) 0x88#8 ∧ writes (.ds1302WriteWday b) 0x8A#8 ∧
    writes (.ds1302WriteYear b) 0x8C#8 ∧ writes (.ds1302WriteWp b) 0x8E#8 ∧
    ∀ idx, idx ≤ 30 → writes (.ds1302WriteRam idx b) (BitVec.ofNat 8 (0xC0 + 2 * idx))

/-- A wire command executed on an engine that is not bound, or with a RAM index outside 0..30, performs no event: the
reason is recorded, the engine is idle, and all else stays (the model's choice, log 18; no run from reset does this). -/
def Obligations.WireCommandsNeedLines : Prop :=
  ∀ (i : Instr) (s : State), isHostOp i = false →
    (WellFormed i → s.rtc.lines = none → exec i s = .next { s with
      rtc := { s.rtc with busy := false, upc := [] }, hist := s.hist ++ [.refused .unbound] }) ∧
    (¬ WellFormed i → exec i s = .next { s with
      rtc := { s.rtc with busy := false, upc := [] }, hist := s.hist ++ [.refused .ramIndex] })

/-- R190, R191 to R197, R165, R168: each getter reads its register with one transaction of 51 events and returns the
decoded byte clamped into the field's range. With no turns listed nothing else moves meanwhile (the model's choice,
log 10). -/
def Obligations.GettersReturnField : Prop :=
  ∀ (s : State) (clk dio ce : PinId), s.rtcAlone clk dio ce →
    let d := sampledByte s.coming
    let n := d.toNat / 16 * 10 + d.toNat % 16
    let gets := fun (i : Instr) (c : Byte) (value : Nat) =>
      s.rtcCompletes clk dio ce i 51 (readEvents clk dio ce c s.coming) 8 (.number value) d d .input
    gets .rtcGetsec 0x81#8 (min n 59) ∧ gets .rtcGetmin 0x83#8 (min n 59) ∧ gets .rtcGethour 0x85#8 (min n 23) ∧
    gets .rtcGetday 0x87#8 (max (min n 31) 1) ∧ gets .rtcGetmonth 0x89#8 (max (min n 12) 1) ∧
    gets .rtcGetwday 0x8B#8 (max (min n 7) 1) ∧ gets .rtcGetyear 0x8D#8 (min n 99 + 2000)

/-- R190, R198 to R204, R167, R169: each setter reduces its operand, encodes it in BCD and writes it with one guarded
write of 150 events, for every operand below 2^32. With no turns listed nothing else moves meanwhile (the model's
choice, log 10). -/
def Obligations.SettersStoreField : Prop :=
  ∀ (s : State) (clk dio ce : PinId) (v : Nat), s.rtcAlone clk dio ce → v < 2 ^ 32 →
    let bcd := fun (m : Nat) => BitVec.ofNat 8 (v % m / 10 * 16 + v % m % 10)
    let sets := fun (i : Instr) (w b : Byte) =>
      s.rtcCompletes clk dio ce i 150 (guardedEvents clk dio ce w b) 0 .nothing 0x80#8 s.rtc.raw .out1
    sets (.rtcSetsec v) 0x80#8 (bcd 60) ∧ sets (.rtcSetmin v) 0x82#8 (bcd 60) ∧ sets (.rtcSethour v) 0x84#8 (bcd 24) ∧
    sets (.rtcSetday v) 0x86#8 (bcd 32) ∧ sets (.rtcSetmonth v) 0x88#8 (bcd 13) ∧ sets (.rtcSetwday v) 0x8A#8 (bcd 8) ∧
    sets (.rtcSetyear v) 0x8C#8 (bcd 100)

/-- R205: `rtc.setdt` writes the seven fields in the rule's order, seven guarded writes, 1050 events. With no turns
listed nothing else moves meanwhile (the model's choice, log 10). -/
def Obligations.SetDateTimeWrites : Prop :=
  ∀ (s : State) (clk dio ce : PinId) (y mo dd wd hh mi ss : Nat), s.rtcAlone clk dio ce → y < 2 ^ 32 → mo < 2 ^ 32 →
    dd < 2 ^ 32 → wd < 2 ^ 32 → hh < 2 ^ 32 → mi < 2 ^ 32 → ss < 2 ^ 32 →
    let bcd := fun (v m : Nat) => BitVec.ofNat 8 (v % m / 10 * 16 + v % m % 10)
    s.rtcCompletes clk dio ce (.rtcSetdt y mo dd wd hh mi ss) 1050
      (guardedEvents clk dio ce 0x8C#8 (bcd y 100) ++ guardedEvents clk dio ce 0x88#8 (bcd mo 13) ++
        guardedEvents clk dio ce 0x86#8 (bcd dd 32) ++ guardedEvents clk dio ce 0x8A#8 (bcd wd 8) ++
        guardedEvents clk dio ce 0x84#8 (bcd hh 24) ++ guardedEvents clk dio ce 0x82#8 (bcd mi 60) ++
        guardedEvents clk dio ce 0x80#8 (bcd ss 60))
      0 .nothing 0x80#8 s.rtc.raw .out1

/-- R206, R207: `rtc.start` and `rtc.pause` read the raw seconds byte and write it back guarded with bit 7 cleared or
set, 201 events. With no turns listed nothing else moves meanwhile (the model's choice, log 10). -/
def Obligations.StartAndPauseToggleHalt : Prop :=
  ∀ (s : State) (clk dio ce : PinId), s.rtcAlone clk dio ce →
    let d := sampledByte s.coming
    s.rtcCompletes clk dio ce .rtcStart 201
      (readEvents clk dio ce 0x81#8 s.coming ++ guardedEvents clk dio ce 0x80#8 (d &&& 0x7F#8)) 8 .nothing 0x80#8 d
      .out1 ∧
    s.rtcCompletes clk dio ce .rtcPause 201
      (readEvents clk dio ce 0x81#8 s.coming ++ guardedEvents clk dio ce 0x80#8 (d ||| 0x80#8)) 8 .nothing 0x80#8 d
      .out1

/-- R208, R209: RAM bytes are read and written raw, at the command of their index, for every index in 0..30 and every
byte. With no turns listed nothing else moves meanwhile (the model's choice, log 10). -/
def Obligations.RamIsRaw : Prop :=
  ∀ (s : State) (clk dio ce : PinId) (idx b : Nat), s.rtcAlone clk dio ce → idx ≤ 30 → b ≤ 255 →
    let d := sampledByte s.coming
    s.rtcCompletes clk dio ce (.rtcRdram idx) 51
      (readEvents clk dio ce (BitVec.ofNat 8 (0xC1 + 2 * idx)) s.coming) 8 (.number d.toNat) d d .input ∧
    s.rtcCompletes clk dio ce (.rtcWrram idx b) 150
      (guardedEvents clk dio ce (BitVec.ofNat 8 (0xC0 + 2 * idx)) (BitVec.ofNat 8 b)) 0 .nothing 0x80#8 s.rtc.raw .out1

/-! ### Conversions -/

/-- R168: the BCD decode, for every byte, well formed or not, and its range. -/
def Obligations.BcdDecode : Prop :=
  ∀ b : Byte, bcd2dec b = b.toNat / 16 * 10 + b.toNat % 16 ∧ bcd2dec b ≤ 165

/-- R169: the BCD encode of 0 to 99 has the tens digit in bits 7:4 and the units digit in bits 3:0, and the decode gives
the value back. -/
def Obligations.BcdEncode : Prop :=
  ∀ v : Nat, v ≤ 99 →
    (dec2bcd v).toNat = v / 10 * 16 + v % 10 ∧ (dec2bcd v).toNat / 16 ≤ 9 ∧ (dec2bcd v).toNat % 16 ≤ 9 ∧
      bcd2dec (dec2bcd v) = v

/-- R170: the clamp. -/
def Obligations.ClampRule : Prop :=
  ∀ lo hi n : Nat, lo ≤ hi →
    clamp lo hi n = max (min n hi) lo ∧ lo ≤ clamp lo hi n ∧ clamp lo hi n ≤ hi ∧
      (lo ≤ n → n ≤ hi → clamp lo hi n = n) ∧ clamp 0 hi n = min n hi

/-- R190 with R275: a getter's value is in the field's range whatever the device answers; a value in the range that was
stored by the setter is read back as it was, and the documented month 13 is read back as 1. -/
def Obligations.FieldRangesAndRoundTrip : Prop :=
  (∀ b : Byte, Field.fromDevice .second (bcd2dec b) ≤ 59 ∧ Field.fromDevice .minute (bcd2dec b) ≤ 59 ∧
    Field.fromDevice .hour (bcd2dec b) ≤ 23 ∧
    (1 ≤ Field.fromDevice .day (bcd2dec b) ∧ Field.fromDevice .day (bcd2dec b) ≤ 31) ∧
    (1 ≤ Field.fromDevice .month (bcd2dec b) ∧ Field.fromDevice .month (bcd2dec b) ≤ 12) ∧
    (1 ≤ Field.fromDevice .weekday (bcd2dec b) ∧ Field.fromDevice .weekday (bcd2dec b) ≤ 7) ∧
    2000 ≤ Field.fromDevice .year (bcd2dec b) ∧ Field.fromDevice .year (bcd2dec b) ≤ 2099) ∧
  (∀ v, v ≤ 59 → Field.fromDevice .second (bcd2dec (Field.toDevice .second v)) = v ∧
    Field.fromDevice .minute (bcd2dec (Field.toDevice .minute v)) = v) ∧
  (∀ v, v ≤ 23 → Field.fromDevice .hour (bcd2dec (Field.toDevice .hour v)) = v) ∧
  (∀ v, 1 ≤ v → v ≤ 31 → Field.fromDevice .day (bcd2dec (Field.toDevice .day v)) = v) ∧
  (∀ v, 1 ≤ v → v ≤ 12 → Field.fromDevice .month (bcd2dec (Field.toDevice .month v)) = v) ∧
  (∀ v, 1 ≤ v → v ≤ 7 → Field.fromDevice .weekday (bcd2dec (Field.toDevice .weekday v)) = v) ∧
  (∀ v, 2000 ≤ v → v ≤ 2099 → Field.fromDevice .year (bcd2dec (Field.toDevice .year v)) = v) ∧
  Field.toDevice .month 13 = 0x00#8 ∧ Field.fromDevice .month (bcd2dec 0x00#8) = 1

/-! ### The reference DS1302 (20_memory.md R62, not normative) -/

/-- The reference DS1302, hearing the 50 events of a write transaction with any even command byte, does what R62 says of
a write with that command and data byte: bit and byte order on the wire agree between block and peer. R62 speaks of the
commands of R52's map only; that the peer keeps a write with another even byte under that byte in the same way, and how
it takes each single event, is the model's choice (log 27). The peer stands beside the model (log 16). -/
def Obligations.PeerHearsWrites : Prop :=
  ∀ (clk dio ce : PinId) (c b : Byte) (d : Ds1302), clk ≠ dio → clk ≠ ce → dio ≠ ce → c.getLsbD 0 = false →
    ((writeEvents clk dio ce c b).foldl (Ds1302.observe clk dio ce) d).dev =
      (if c = 0x8E#8 then d.dev.write c.toNat b
        else if (d.dev.read 0x8E).getLsbD 7 then d.dev
        else d.dev.write c.toNat b)

/-- The reference DS1302, having heard any odd command byte of a read transaction and the release of the data line,
answers the i-th sample with bit i of the addressed byte (R62), so the byte that the block makes of its answers is
that byte; and a read changes no register of the device (R60). R62 speaks of the commands of R52's map only; that the
peer answers a read with another odd byte with what it keeps under the byte before it, and changes nothing then too,
and how it takes each single event, is the model's choice (log 27). The peer stands beside the model (log 16). -/
def Obligations.PeerAnswersReads : Prop :=
  ∀ (clk dio ce : PinId) (c : Byte) (d : Ds1302) (v : Nat → Level), clk ≠ dio → clk ≠ ce → dio ≠ ce →
    c.getLsbD 0 = true →
    let heard := fun (n : Nat) => ((readEvents clk dio ce c v).take n).foldl (Ds1302.observe clk dio ce) d
    (∀ i, i < 8 → (heard (26 + 3 * i)).answer = (d.dev.read (c.toNat - 1)).getLsbD i) ∧
    ((∀ i, i < 8 → v i = (heard (26 + 3 * i)).answer) → sampledByte v = d.dev.read (c.toNat - 1)) ∧
    (heard 51).dev = d.dev

/-- The answers of the reference sensor of R63 that sends five bytes are those of a sensor that sends the frame which
packs into these bytes, each wait taking one sample: bit order and byte order agree with R77. The peer stands beside
the model (log 16). -/
def Obligations.SensorSendsFrame : Prop :=
  ∀ (f : Frame) (b₀ b₁ b₂ b₃ b₄ : Byte), pack f = ⟨b₀.toNat, b₁.toNat, b₂.toNat, b₃.toNat, b₄.toNat⟩ →
    dhtAnswers true [b₀, b₁, b₂, b₃, b₄] = frameAnswers f (fun _ => 0)

/-! ### Statements added after the first review -/

/-- A request with an opcode of R72 and operands of another number or of other kinds than R72's column and R71 give it
is refused as `REF_OPERAND`: no port event, the reason recorded, nothing else changed (R236). An operand of another
kind is a value outside its type (R71). For a record of another length the spec names no reason of its own: that it is
this one is the model's choice (log 2). That the issue is recorded is log 23, that the request is taken from a list is
log 12. -/
def Obligations.WrongOperandsRefused : Prop :=
  ∀ (s : State) (r : Request PinId) (rest : List (Request PinId)) (kinds : List OperandKind), s.pending = r :: rest →
    (r.op.toNat, kinds) ∈ operandShapes → r.args.map Operand.kind ≠ kinds →
    stepHost exec s = .next (((s.setPending rest).log (.issue r)).log (.refused .operand))

/-- The machine takes the type of pins as an argument (R7) and knows of a pin only which pins are equal. For any two
types of pins with decidable equality and any injective function from the one to the other: from a state with every pin
renamed by it a step stops for the same reason, or leads to the next state with every pin renamed. The host's machine
is the one over natural numbers, so with a numbering of a platform's pins it is the machine over them (log 6). -/
def Obligations.PinsAreOnlyNames : Prop :=
  (∀ (P Q : Type) [DecidableEq P] [DecidableEq Q] (f : P → Q) (s : State P) (s' : State Q), Function.Injective f →
    s.PinsRenamed f s' →
    match stepAt s with
    | .next t => ∃ t', stepAt s' = .next t' ∧ t.PinsRenamed f t'
    | .fault e => stepAt s' = .fault e
    | .refused r => stepAt s' = .refused r) ∧
  ∀ s : State, step s = stepAt s
end

