-- ==== Sys2Proof/Laws/Convert.lean ====
section
/-! SUPPORT. The conversions in the spec's own numbers: the frame's bytes, the two decodes and the unit step in
thousandths (41_dht_sampler.md R128, R133 to R135), and what each field's getter and setter give (43_rtc_fields.md
R190). -/

namespace Sys2Proof.Machine

theorem pack_eq (f : Frame) :
    pack f = ⟨frameByte f 0, frameByte f 1, frameByte f 2, frameByte f 3, frameByte f 4⟩ := rfl

theorem checksumOk_eq (b : FrameBytes) :
    checksumOk b = decide (b.b4 = (b.b0 + b.b1 + b.b2 + b.b3) % 256) := by
  simp [checksumOk, Config.checksumModulus, beq_eq_decide]

theorem milli_one (n : Nat) : milli n 1 = 1000 * (n : Int) := by simp [milli]

theorem milli_ten (n : Nat) : milli n 10 = 100 * (n : Int) := by
  show @Eq Int (1000 * (n : Int) / 10) _
  omega

theorem milli_hundred (n : Nat) : milli n 100 = 10 * (n : Int) := by
  show @Eq Int (1000 * (n : Int) / 100) _
  omega

theorem decode11_eq (b : FrameBytes) :
    decode11 b = (1000 * (b.b0 : Int) + 10 * (b.b1 : Int), 1000 * (b.b2 : Int) + 10 * (b.b3 : Int)) := by
  simp only [decode11, Config.dht11Divisor, milli_one, milli_hundred]

theorem rawHumidity_eq (b : FrameBytes) : rawHumidity b = b.b0 * 256 + b.b1 := rfl

theorem tempMagnitude_eq (b : FrameBytes) : tempMagnitude b = b.b2 % 128 * 256 + b.b3 := by
  simp [tempMagnitude, bits, Config.signBit, Config.byteValues]

theorem tempNegative_eq (b : FrameBytes) : tempNegative b = decide (b.b2 / 128 % 2 = 1) := by
  simp [tempNegative, bits, Config.signBit, beq_eq_decide]

theorem decode22_eq (b : FrameBytes) :
    decode22 b = (100 * (rawHumidity b : Int),
      if tempNegative b then -(100 * (tempMagnitude b : Int)) else 100 * (tempMagnitude b : Int)) := by
  simp only [decode22, Config.dht22Divisor, milli_ten]

theorem applyUnit_fahrenheit (tc : Milli) : applyUnit .fahrenheit tc = tc * 9 / 5 + 32000 := by
  simp [applyUnit, milli, Config.fahrenheitNum, Config.fahrenheitDen, Config.fahrenheitOffset]

/-! ### The getters of R190 -/

theorem fromDevice_second (n : Nat) : Field.fromDevice .second n = min n 59 := Nat.max_zero ..

theorem fromDevice_minute (n : Nat) : Field.fromDevice .minute n = min n 59 := Nat.max_zero ..

theorem fromDevice_hour (n : Nat) : Field.fromDevice .hour n = min n 23 := Nat.max_zero ..

theorem fromDevice_day (n : Nat) : Field.fromDevice .day n = max (min n 31) 1 := rfl

theorem fromDevice_month (n : Nat) : Field.fromDevice .month n = max (min n 12) 1 := rfl

theorem fromDevice_weekday (n : Nat) : Field.fromDevice .weekday n = max (min n 7) 1 := rfl

theorem fromDevice_year (n : Nat) : Field.fromDevice .year n = min n 99 + 2000 :=
  congrArg (· + 2000) (Nat.max_zero ..)

end Sys2Proof.Machine
end

