-- ==== Sys2Proof/Laws/Decode.lean ====
section
/-! SUPPORT. What the decoder's tables say (30_encoding.md R70 to R73): the operand ranges in the spec's own numbers, an
opcode selects its own operation, and an operand record of the right kinds, and no other, spells an instruction. -/

namespace Sys2Proof

variable {Pin : Type}

theorem isRamIndex_eq (n : Nat) : isRamIndex n = decide (n ≤ 30) := by
  simp [isRamIndex, Config.ramSlots, Nat.lt_succ_iff]

theorem isFieldValue_eq (v : Nat) : isFieldValue v = decide (v < 2 ^ 32) := rfl

theorem isByteValue_eq (v : Nat) : isByteValue v = decide (v ≤ 255) := by
  simp [isByteValue, Config.byteValues, Nat.lt_succ_iff]

/-- The opcode of an operation selects that operation. -/
theorem ofOpcode_opcode (o : HostOp) : HostOp.ofOpcode o.opcode = some o := by cases o <;> rfl

/-- An opcode that selects an operation is that operation's. -/
theorem opcode_of_ofOpcode {op : Byte} {o : HostOp} (h : HostOp.ofOpcode op = some o) : o.opcode = op := by
  simpa using List.find?_some h

/-- A list of operands has no kinds exactly when it is empty. -/
theorem kinds_eq_nil {args : List (Operand Pin)} : args.map Operand.kind = [] ↔ args = [] := List.map_eq_nil_iff

/-- The first operand is a pin. -/
theorem kinds_eq_pin_cons {args : List (Operand Pin)} {ks : List OperandKind} :
    args.map Operand.kind = .pin :: ks ↔ ∃ p rest, args = .pin p :: rest ∧ rest.map Operand.kind = ks := by
  rcases args with _ | ⟨_ | _, rest⟩ <;> simp [Operand.kind]

/-- The first operand is a number. -/
theorem kinds_eq_num_cons {args : List (Operand Pin)} {ks : List OperandKind} :
    args.map Operand.kind = .num :: ks ↔ ∃ n rest, args = .num n :: rest ∧ rest.map Operand.kind = ks := by
  rcases args with _ | ⟨_ | _, rest⟩ <;> simp [Operand.kind]

/-- An operand record spells an instruction exactly when its operands have the kinds of R72's column (R71). -/
theorem instr_isSome (o : HostOp) (args : List (Operand Pin)) :
    (o.instr args).isSome ↔ args.map Operand.kind = o.shape := by
  constructor
  · intro h
    unfold HostOp.instr at h
    split at h <;> first | rfl | cases h
  · intro h
    cases o <;> simp only [HostOp.shape, kinds_eq_pin_cons, kinds_eq_num_cons, kinds_eq_nil] at h <;>
      (repeat obtain ⟨_, _, rfl, h⟩ := h) <;> rfl

/-- The instruction of an operation is encoded as that operation's request. -/
theorem encode_of_instr {o : HostOp} {args : List (Operand Pin)} {i : Instr Pin} (h : o.instr args = some i) :
    encode i = o.code args := by
  unfold HostOp.instr at h
  split at h <;> first | (cases h; rfl) | cases h

/-- A record with another number of operands (log 2) or operands of other kinds (R71) has an operand outside its
type. -/
theorem decodeHost_operandShape {r : Request Pin} {o : HostOp} (h : HostOp.ofOpcode r.op = some o)
    (hn : r.args.map Operand.kind ≠ o.shape) : decodeHost r = .error .operandShape := by
  have hi : o.instr r.args = none := by
    rw [← Option.not_isSome_iff_eq_none, instr_isSome]
    exact hn
  simp [decodeHost, h, hi]

end Sys2Proof
end

