-- ==== Sys2Proof/Laws/State.lean ====
section
/-! SUPPORT. One lemma per field per update of the state, so that no proof unfolds a record update; and updates that
follow one another. -/

namespace Sys2Proof.Machine

variable {Pin : Type} (s : State Pin)

@[simp] theorem setDht_dht (d : DhtEngine Pin) : (s.setDht d).dht = d := rfl
@[simp] theorem setDht_rtc (d : DhtEngine Pin) : (s.setDht d).rtc = s.rtc := rfl
@[simp] theorem setDht_modes (d : DhtEngine Pin) : (s.setDht d).modes = s.modes := rfl
@[simp] theorem setDht_pulls (d : DhtEngine Pin) : (s.setDht d).pulls = s.pulls := rfl
@[simp] theorem setDht_hist (d : DhtEngine Pin) : (s.setDht d).hist = s.hist := rfl
@[simp] theorem setDht_oracle (d : DhtEngine Pin) : (s.setDht d).oracle = s.oracle := rfl
@[simp] theorem setDht_pending (d : DhtEngine Pin) : (s.setDht d).pending = s.pending := rfl
@[simp] theorem setDht_turns (d : DhtEngine Pin) : (s.setDht d).turns = s.turns := rfl
@[simp] theorem setDht_pollBound (d : DhtEngine Pin) : (s.setDht d).pollBound = s.pollBound := rfl

@[simp] theorem setRtc_dht (r : RtcEngine Pin) : (s.setRtc r).dht = s.dht := rfl
@[simp] theorem setRtc_rtc (r : RtcEngine Pin) : (s.setRtc r).rtc = r := rfl
@[simp] theorem setRtc_modes (r : RtcEngine Pin) : (s.setRtc r).modes = s.modes := rfl
@[simp] theorem setRtc_pulls (r : RtcEngine Pin) : (s.setRtc r).pulls = s.pulls := rfl
@[simp] theorem setRtc_hist (r : RtcEngine Pin) : (s.setRtc r).hist = s.hist := rfl
@[simp] theorem setRtc_oracle (r : RtcEngine Pin) : (s.setRtc r).oracle = s.oracle := rfl
@[simp] theorem setRtc_pending (r : RtcEngine Pin) : (s.setRtc r).pending = s.pending := rfl
@[simp] theorem setRtc_turns (r : RtcEngine Pin) : (s.setRtc r).turns = s.turns := rfl
@[simp] theorem setRtc_pollBound (r : RtcEngine Pin) : (s.setRtc r).pollBound = s.pollBound := rfl

@[simp] theorem setModes_dht (m : List (Pin × PinMode)) : (s.setModes m).dht = s.dht := rfl
@[simp] theorem setModes_rtc (m : List (Pin × PinMode)) : (s.setModes m).rtc = s.rtc := rfl
@[simp] theorem setModes_modes (m : List (Pin × PinMode)) : (s.setModes m).modes = m := rfl
@[simp] theorem setModes_pulls (m : List (Pin × PinMode)) : (s.setModes m).pulls = s.pulls := rfl
@[simp] theorem setModes_hist (m : List (Pin × PinMode)) : (s.setModes m).hist = s.hist := rfl
@[simp] theorem setModes_oracle (m : List (Pin × PinMode)) : (s.setModes m).oracle = s.oracle := rfl
@[simp] theorem setModes_pending (m : List (Pin × PinMode)) : (s.setModes m).pending = s.pending := rfl
@[simp] theorem setModes_turns (m : List (Pin × PinMode)) : (s.setModes m).turns = s.turns := rfl
@[simp] theorem setModes_pollBound (m : List (Pin × PinMode)) : (s.setModes m).pollBound = s.pollBound := rfl

@[simp] theorem setPulls_dht (m : List (Pin × PullMode)) : (s.setPulls m).dht = s.dht := rfl
@[simp] theorem setPulls_rtc (m : List (Pin × PullMode)) : (s.setPulls m).rtc = s.rtc := rfl
@[simp] theorem setPulls_modes (m : List (Pin × PullMode)) : (s.setPulls m).modes = s.modes := rfl
@[simp] theorem setPulls_pulls (m : List (Pin × PullMode)) : (s.setPulls m).pulls = m := rfl
@[simp] theorem setPulls_hist (m : List (Pin × PullMode)) : (s.setPulls m).hist = s.hist := rfl
@[simp] theorem setPulls_oracle (m : List (Pin × PullMode)) : (s.setPulls m).oracle = s.oracle := rfl
@[simp] theorem setPulls_pending (m : List (Pin × PullMode)) : (s.setPulls m).pending = s.pending := rfl
@[simp] theorem setPulls_turns (m : List (Pin × PullMode)) : (s.setPulls m).turns = s.turns := rfl
@[simp] theorem setPulls_pollBound (m : List (Pin × PullMode)) : (s.setPulls m).pollBound = s.pollBound := rfl

@[simp] theorem setOracle_dht (o : Oracle) : (s.setOracle o).dht = s.dht := rfl
@[simp] theorem setOracle_rtc (o : Oracle) : (s.setOracle o).rtc = s.rtc := rfl
@[simp] theorem setOracle_modes (o : Oracle) : (s.setOracle o).modes = s.modes := rfl
@[simp] theorem setOracle_pulls (o : Oracle) : (s.setOracle o).pulls = s.pulls := rfl
@[simp] theorem setOracle_hist (o : Oracle) : (s.setOracle o).hist = s.hist := rfl
@[simp] theorem setOracle_oracle (o : Oracle) : (s.setOracle o).oracle = o := rfl
@[simp] theorem setOracle_pending (o : Oracle) : (s.setOracle o).pending = s.pending := rfl
@[simp] theorem setOracle_turns (o : Oracle) : (s.setOracle o).turns = s.turns := rfl
@[simp] theorem setOracle_pollBound (o : Oracle) : (s.setOracle o).pollBound = s.pollBound := rfl

@[simp] theorem setPending_dht (q : List (Request Pin)) : (s.setPending q).dht = s.dht := rfl
@[simp] theorem setPending_rtc (q : List (Request Pin)) : (s.setPending q).rtc = s.rtc := rfl
@[simp] theorem setPending_modes (q : List (Request Pin)) : (s.setPending q).modes = s.modes := rfl
@[simp] theorem setPending_pulls (q : List (Request Pin)) : (s.setPending q).pulls = s.pulls := rfl
@[simp] theorem setPending_hist (q : List (Request Pin)) : (s.setPending q).hist = s.hist := rfl
@[simp] theorem setPending_oracle (q : List (Request Pin)) : (s.setPending q).oracle = s.oracle := rfl
@[simp] theorem setPending_pending (q : List (Request Pin)) : (s.setPending q).pending = q := rfl
@[simp] theorem setPending_turns (q : List (Request Pin)) : (s.setPending q).turns = s.turns := rfl
@[simp] theorem setPending_pollBound (q : List (Request Pin)) : (s.setPending q).pollBound = s.pollBound := rfl

@[simp] theorem setTurns_dht (t : List Turn) : (s.setTurns t).dht = s.dht := rfl
@[simp] theorem setTurns_rtc (t : List Turn) : (s.setTurns t).rtc = s.rtc := rfl
@[simp] theorem setTurns_modes (t : List Turn) : (s.setTurns t).modes = s.modes := rfl
@[simp] theorem setTurns_pulls (t : List Turn) : (s.setTurns t).pulls = s.pulls := rfl
@[simp] theorem setTurns_hist (t : List Turn) : (s.setTurns t).hist = s.hist := rfl
@[simp] theorem setTurns_oracle (t : List Turn) : (s.setTurns t).oracle = s.oracle := rfl
@[simp] theorem setTurns_pending (t : List Turn) : (s.setTurns t).pending = s.pending := rfl
@[simp] theorem setTurns_turns (t : List Turn) : (s.setTurns t).turns = t := rfl
@[simp] theorem setTurns_pollBound (t : List Turn) : (s.setTurns t).pollBound = s.pollBound := rfl

@[simp] theorem log_dht (e : Entry Pin) : (s.log e).dht = s.dht := rfl
@[simp] theorem log_rtc (e : Entry Pin) : (s.log e).rtc = s.rtc := rfl
@[simp] theorem log_modes (e : Entry Pin) : (s.log e).modes = s.modes := rfl
@[simp] theorem log_pulls (e : Entry Pin) : (s.log e).pulls = s.pulls := rfl
@[simp] theorem log_hist (e : Entry Pin) : (s.log e).hist = s.hist ++ [e] := rfl
@[simp] theorem log_oracle (e : Entry Pin) : (s.log e).oracle = s.oracle := rfl
@[simp] theorem log_pending (e : Entry Pin) : (s.log e).pending = s.pending := rfl
@[simp] theorem log_turns (e : Entry Pin) : (s.log e).turns = s.turns := rfl
@[simp] theorem log_pollBound (e : Entry Pin) : (s.log e).pollBound = s.pollBound := rfl

@[simp] theorem setDht_setDht (x y : DhtEngine Pin) : (s.setDht x).setDht y = s.setDht y := rfl

@[simp] theorem setRtc_setRtc (x y : RtcEngine Pin) : (s.setRtc x).setRtc y = s.setRtc y := rfl

@[simp] theorem setModes_setModes (x y : List (Pin × PinMode)) : (s.setModes x).setModes y = s.setModes y := rfl

@[simp] theorem setPulls_setPulls (x y : List (Pin × PullMode)) : (s.setPulls x).setPulls y = s.setPulls y := rfl

@[simp] theorem setOracle_setOracle (x y : Oracle) : (s.setOracle x).setOracle y = s.setOracle y := rfl

@[simp] theorem setPending_setPending (x y : List (Request Pin)) : (s.setPending x).setPending y = s.setPending y := rfl

@[simp] theorem setTurns_setTurns (x y : List Turn) : (s.setTurns x).setTurns y = s.setTurns y := rfl

@[simp] theorem setTurns_self : s.setTurns s.turns = s := rfl

@[simp] theorem setRtc_self : s.setRtc s.rtc = s := rfl

@[simp] theorem setDht_self : s.setDht s.dht = s := rfl

end Sys2Proof.Machine
end

