-- ==== Sys2Proof/Laws/Ops.lean ====
section
/-! SUPPORT. What each shared operation does to each part of the state: pin tables (10_state.md R31), port primitives
(40_port_primitives.md R101 to R107), oracle draws, endings and admission (60_exceptions.md R235, R236). -/

namespace Sys2Proof.Machine

variable {Pin : Type}

/-! ### Pin tables -/

section
variable [DecidableEq Pin] {α : Type} (dflt : α) (t : List (Pin × α))

theorem pinGet_erase_same (p : Pin) : pinGet dflt (pinErase t p) p = dflt := by
  induction t with
  | nil => rfl
  | cons e rest ih =>
    obtain ⟨q, w⟩ := e
    by_cases h : q = p
    · simpa [pinErase, h] using ih
    · simpa [pinErase, h, pinGet] using ih

theorem pinGet_erase_other (p q : Pin) (h : q ≠ p) : pinGet dflt (pinErase t p) q = pinGet dflt t q := by
  induction t with
  | nil => rfl
  | cons e rest ih =>
    obtain ⟨r, w⟩ := e
    by_cases hr : r = p
    · subst hr; simpa [pinErase, pinGet, Ne.symm h] using ih
    · have : pinErase ((r, w) :: rest) p = (r, w) :: pinErase rest p := by simp [pinErase, hr]
      rw [this, pinGet, pinGet, ih]

variable [DecidableEq α]

/-- Reading a pin after writing it gives what was written. -/
@[simp] theorem pinGet_set_same (p : Pin) (v : α) : pinGet dflt (pinSet dflt t p v) p = v := by
  unfold pinSet
  split
  · next h => rw [pinGet_erase_same, h]
  · simp [pinGet]

/-- Writing a pin leaves every other pin alone. -/
theorem pinGet_set_other (p q : Pin) (v : α) (h : q ≠ p) : pinGet dflt (pinSet dflt t p v) q = pinGet dflt t q := by
  unfold pinSet
  split
  · exact pinGet_erase_other _ _ _ _ h
  · rw [pinGet, if_neg (Ne.symm h), pinGet_erase_other _ _ _ _ h]

/-- Reading any pin after a write. -/
theorem pinGet_set (p q : Pin) (v : α) :
    pinGet dflt (pinSet dflt t p v) q = if q = p then v else pinGet dflt t q := by
  split
  · next h => subst h; simp
  · next h => exact pinGet_set_other _ _ _ _ _ h

end

section
variable [DecidableEq Pin] {α : Type} {t : List (Pin × α)}

/-- Writing a pin keeps the table's form. -/
theorem pinSet_wf [DecidableEq α] {dflt : α} (ht : PinTable.wf dflt t) (p : Pin) (v : α) :
    PinTable.wf dflt (pinSet dflt t p v) := by
  obtain ⟨hp, hd⟩ := ht
  unfold pinSet
  split
  · exact ⟨hp.filter _, fun e he => hd e (List.mem_of_mem_filter he)⟩
  · next hv =>
    refine ⟨List.pairwise_cons.2 ⟨fun e he => Ne.symm (by simpa using List.of_mem_filter he), hp.filter _⟩, ?_⟩
    intro e he
    rcases List.mem_cons.1 he with rfl | he
    · exact hv
    · exact hd e (List.mem_of_mem_filter he)

end

/-! ### Port primitives -/

section
variable (s : State Pin) (e : Engine) (p : Pin)

@[simp] theorem sample_dht : (s.sample e p).dht = s.dht := rfl
@[simp] theorem sample_rtc : (s.sample e p).rtc = s.rtc := rfl
@[simp] theorem sample_pulls : (s.sample e p).pulls = s.pulls := rfl
@[simp] theorem sample_modes : (s.sample e p).modes = s.modes := rfl
@[simp] theorem sample_hist : (s.sample e p).hist = s.hist ++ [.port e (.sample p s.nextLevel)] := rfl
@[simp] theorem sample_oracle : (s.sample e p).oracle = s.oracle.dropLevels 1 := rfl
@[simp] theorem sample_pending : (s.sample e p).pending = s.pending := rfl
@[simp] theorem sample_turns : (s.sample e p).turns = s.turns := rfl
@[simp] theorem sample_pollBound : (s.sample e p).pollBound = s.pollBound := rfl

@[simp] theorem now_dht : (s.now e).dht = s.dht := rfl
@[simp] theorem now_rtc : (s.now e).rtc = s.rtc := rfl
@[simp] theorem now_pulls : (s.now e).pulls = s.pulls := rfl
@[simp] theorem now_modes : (s.now e).modes = s.modes := rfl
@[simp] theorem now_hist : (s.now e).hist = s.hist ++ [.port e (.now s.nextClock)] := rfl
@[simp] theorem now_oracle : (s.now e).oracle = s.oracle.dropClock := rfl
@[simp] theorem now_pending : (s.now e).pending = s.pending := rfl
@[simp] theorem now_turns : (s.now e).turns = s.turns := rfl
@[simp] theorem now_pollBound : (s.now e).pollBound = s.pollBound := rfl

variable [DecidableEq Pin]

@[simp] theorem drive_dht (v : Level) : (s.drive e p v).dht = s.dht := rfl
@[simp] theorem drive_rtc (v : Level) : (s.drive e p v).rtc = s.rtc := rfl
@[simp] theorem drive_pulls (v : Level) : (s.drive e p v).pulls = s.pulls := rfl
@[simp] theorem drive_modes (v : Level) : (s.drive e p v).modes = pinSet .input s.modes p (driveMode v) := rfl
@[simp] theorem drive_hist (v : Level) : (s.drive e p v).hist = s.hist ++ [.port e (.drive p v)] := rfl
@[simp] theorem drive_oracle (v : Level) : (s.drive e p v).oracle = s.oracle := rfl
@[simp] theorem drive_pending (v : Level) : (s.drive e p v).pending = s.pending := rfl
@[simp] theorem drive_turns (v : Level) : (s.drive e p v).turns = s.turns := rfl
@[simp] theorem drive_pollBound (v : Level) : (s.drive e p v).pollBound = s.pollBound := rfl

@[simp] theorem release_dht (up : Bool) : (s.release e p up).dht = s.dht := rfl
@[simp] theorem release_rtc (up : Bool) : (s.release e p up).rtc = s.rtc := rfl
@[simp] theorem release_pulls (up : Bool) : (s.release e p up).pulls = releasePulls s.pulls p up := rfl
@[simp] theorem release_modes (up : Bool) : (s.release e p up).modes = pinSet .input s.modes p .input := rfl
@[simp] theorem release_hist (up : Bool) : (s.release e p up).hist = s.hist ++ [.port e (.release p up)] := rfl
@[simp] theorem release_oracle (up : Bool) : (s.release e p up).oracle = s.oracle := rfl
@[simp] theorem release_pending (up : Bool) : (s.release e p up).pending = s.pending := rfl
@[simp] theorem release_turns (up : Bool) : (s.release e p up).turns = s.turns := rfl
@[simp] theorem release_pollBound (up : Bool) : (s.release e p up).pollBound = s.pollBound := rfl

/-- `Drive` writes the mode of its pin and of no other (R101). -/
theorem drive_mode (v : Level) (q : Pin) : (s.drive e p v).mode q = if q = p then driveMode v else s.mode q :=
  pinGet_set ..

/-- `Release` makes its pin an input and leaves the others (R102). -/
theorem release_mode (up : Bool) (q : Pin) : (s.release e p up).mode q = if q = p then .input else s.mode q := by
  simp [State.mode, pinGet_set]

/-- `Release(p, 1)` configures the pull-up, `Release(p, 0)` leaves every pull mode as it is (R102). -/
theorem release_pull (up : Bool) (q : Pin) :
    (s.release e p up).pull q = if up = true ∧ q = p then .up else s.pull q := by
  cases up
  · simp [State.pull, releasePulls]
  · simp [State.pull, releasePulls, pinGet_set]

end

/-- The pin tables have their form at reset. -/
theorem reset_pins_wf : PinTable.wf .input State.reset.modes ∧ PinTable.wf .off State.reset.pulls :=
  ⟨⟨.nil, by decide⟩, .nil, by decide⟩

section
variable [DecidableEq Pin]

/-- `Drive` keeps the form of the modes. -/
theorem drive_wf {s : State Pin} (h : PinTable.wf .input s.modes) (e : Engine) (p : Pin) (v : Level) :
    PinTable.wf .input (s.drive e p v).modes := pinSet_wf h p (driveMode v)

/-- `Release` keeps the form of the modes. -/
theorem release_wf_modes {s : State Pin} (h : PinTable.wf .input s.modes) (e : Engine) (p : Pin) (up : Bool) :
    PinTable.wf .input (s.release e p up).modes := pinSet_wf h p .input

/-- `Release` keeps the form of the pull modes. -/
theorem release_wf_pulls {s : State Pin} (h : PinTable.wf .off s.pulls) (e : Engine) (p : Pin) (up : Bool) :
    PinTable.wf .off (s.release e p up).pulls := by
  cases up
  · exact h
  · exact pinSet_wf h p .up

end

/-! ### The oracle -/

@[simp] theorem dropLevels_zero (o : Oracle) : o.dropLevels 0 = o := by simp [Oracle.dropLevels]

/-- Draws add up. -/
@[simp] theorem dropLevels_dropLevels (o : Oracle) (m n : Nat) :
    (o.dropLevels m).dropLevels n = o.dropLevels (m + n) := by
  simp [Oracle.dropLevels, Nat.add_assoc]

/-- The n-th answer after m draws is the (m + n)-th from the start. -/
@[simp] theorem level_dropLevels (o : Oracle) (m n : Nat) : (o.dropLevels m).level n = o.level (m + n) := by
  simp [Oracle.level, Oracle.dropLevels, Nat.add_assoc]

/-! ### Admission -/

@[simp] theorem admit_none (s t : State Pin) : s.admission none t = t := rfl

@[simp] theorem admit_some (s t : State Pin) (r : OpRefusal) : s.admission (some r) t = s.refuse r := rfl

theorem checkOperand_eq_none {b : Bool} : checkOperand b = none ↔ b = true := by cases b <;> simp [checkOperand]

theorem checkRamIndex_eq_none {n : Nat} : checkRamIndex n = none ↔ n ≤ 30 := by
  simp [checkRamIndex, isRamIndex_eq]

/-- A field value is below 2^32 (30_encoding.md R71). -/
theorem checkFieldValue_eq_none {v : Nat} : checkOperand (isFieldValue v) = none ↔ v < 2 ^ 32 :=
  checkOperand_eq_none.trans decide_eq_true_iff

/-- A RAM data byte is at most 255 (R71). -/
theorem checkByteValue_eq_none {v : Nat} : checkOperand (isByteValue v) = none ↔ v ≤ 255 := by
  simp [checkOperand_eq_none, isByteValue_eq]

end Sys2Proof.Machine
end

