-- ==== Sys2Proof/Laws/Rtc.lean ====
section
/-! SUPPORT. Running the RTC engine: a straight line of port events, a byte shifted out or in, a transaction
(42_rtc_transactions.md R162 to R167), and an operation from its issue to its return. -/

namespace Sys2Proof.Machine

/-! ### One step of an engine that runs undisturbed -/

/-- With no turns listed, taking the turn changes nothing. -/
theorem takeTurn_unscheduled {s : State} (ht : s.turns = []) : s.takeTurn = s := by
  rw [State.takeTurn, ht, List.drop_nil, ← ht, setTurns_self]

/-- With no turns listed and the DHT engine idle, a busy RTC engine makes the step. -/
theorem step_rtc {s : State} (ht : s.turns = []) (hd : s.dht.busy = false) (hb : s.rtc.busy = true) :
    step s = rtcMicroStep exec s := by
  have hm : s.mover = .rtc := by simp [State.mover, ht, hd, hb]
  have hs : s.takeTurn = s := takeTurn_unscheduled ht
  rw [step, hm, hs]; simp [moveOf, stepRtc, hb]

/-- With no turns listed, a busy DHT engine makes the step. -/
theorem step_dht {s : State} (ht : s.turns = []) (hd : s.dht.busy = true) : step s = .next (dhtMicroStep s) := by
  have hm : s.mover = .dht := by simp [State.mover, ht, hd]
  have hs : s.takeTurn = s := takeTurn_unscheduled ht
  rw [step, hm, hs]; simp [moveOf, stepDht, hd]

/-- One step and then the rest. -/
theorem steps_succ {s t : State} (n : Nat) (h : step s = .next t) : steps (n + 1) s = steps n t := by
  simp [steps, h]

/-- Steps add up. -/
theorem steps_add {s t : State} (m n : Nat) (h : steps m s = .next t) : steps (m + n) s = steps n t := by
  induction m generalizing s with
  | zero => cases h; simp
  | succ k ih =>
    rw [Nat.succ_add]
    cases hs : step s with
    | next u =>
      rw [steps_succ _ hs] at h ⊢
      exact ih h
    | fault r => simp [steps, hs] at h
    | refused r => simp [steps, hs] at h

/-- `steps` is the host's run of the machine. -/
theorem steps_eq_run (n : Nat) (s : State) : steps n s = Host.Core.run Sys2Proof.core n s := by
  induction n generalizing s with
  | zero => rfl
  | succ n ih =>
    rw [Host.Core.run.eq_2 Sys2Proof.core s n, steps]
    cases h : step s with
    | next t =>
      have h' : Sys2Proof.core.step s = .next t := h
      simp only [h', ih]; rfl
    | fault r =>
      have h' : Sys2Proof.core.step s = .fault r := h
      simp only [h']; rfl
    | refused r =>
      have h' : Sys2Proof.core.step s = .refused r := h
      simp only [h']; rfl

/-! ### A straight line of port events -/

@[simp] theorem setRtcUpc_upc (s : State) (prog : List (RtcMicro PinId)) : (s.setRtcUpc prog).rtc.upc = prog := rfl

/-- The events of a list performed in order. -/
def performAll (ps : List (RtcPrim PinId)) (s : State) : State := ps.foldl (fun t p => rtcPerform p t) s

@[simp] theorem performAll_nil (s : State) : performAll [] s = s := rfl

@[simp] theorem performAll_cons (p : RtcPrim PinId) (ps : List (RtcPrim PinId)) (s : State) :
    performAll (p :: ps) s = performAll ps (rtcPerform p s) := rfl

theorem performAll_append (ps qs : List (RtcPrim PinId)) (s : State) :
    performAll (ps ++ qs) s = performAll qs (performAll ps s) := List.foldl_append ..

/-- A port event neither reads nor writes `UPC`. -/
theorem rtcPerform_setRtcUpc (p : RtcPrim PinId) (s : State) (u : List (RtcMicro PinId)) :
    rtcPerform p (s.setRtcUpc u) = (rtcPerform p s).setRtcUpc u := by
  cases p with
  | clockLow clk n after => cases after <;> rfl
  | _ => rfl

/-- What a port event of the RTC engine leaves as it was. -/
theorem rtcPerform_frame (p : RtcPrim PinId) (s : State) :
    (rtcPerform p s).dht = s.dht ∧ (rtcPerform p s).pending = s.pending ∧ (rtcPerform p s).turns = s.turns ∧
      (rtcPerform p s).pollBound = s.pollBound ∧ (rtcPerform p s).pulls = s.pulls ∧
      (rtcPerform p s).rtc.busy = s.rtc.busy ∧ (rtcPerform p s).rtc.ret = s.rtc.ret ∧
      (rtcPerform p s).rtc.upc = s.rtc.upc ∧ (rtcPerform p s).rtc.clkPin = s.rtc.clkPin ∧
      (rtcPerform p s).rtc.dioPin = s.rtc.dioPin ∧ (rtcPerform p s).rtc.cePin = s.rtc.cePin := by
  cases p with
  | clockLow clk n after => cases after <;> simp [rtcPerform, AfterPulse.apply]
  | releaseDio dio => simp [rtcPerform, releasePulls]
  | _ => simp [rtcPerform]

/-- Performing events after `UPC` was set, and setting it again. -/
theorem performAll_setRtcUpc (ps : List (RtcPrim PinId)) (s : State) (u v : List (RtcMicro PinId)) :
    (performAll ps (s.setRtcUpc u)).setRtcUpc v = (performAll ps s).setRtcUpc v := by
  induction ps generalizing s u with
  | nil => rfl
  | cons p ps ih => rw [performAll_cons, rtcPerform_setRtcUpc, ih, performAll_cons]

/-- Nothing is settled while events are left. -/
theorem rtcSettle_of_ne {s : State} (h : s.rtc.upc ≠ []) : s.rtcSettle = s := by
  simp [State.rtcSettle, List.isEmpty_iff, h]

/-- The engine performs a straight line of port events, one a step; after the last it goes on with `rest`, or returns
when nothing is left. -/
theorem steps_prims (ps : List (RtcPrim PinId)) (rest : List (RtcMicro PinId)) (hps : ps ≠ []) :
    ∀ s : State, s.turns = [] → s.dht.busy = false → s.rtc.busy = true → s.rtc.upc = ps.map .prim ++ rest →
      steps ps.length s = .next ((performAll ps s).setRtcUpc rest).rtcSettle := by
  induction ps with
  | nil => exact absurd rfl hps
  | cons p ps ih =>
    intro s ht hd hb hu
    have hu' : s.rtc.upc = .prim p :: (ps.map .prim ++ rest) := by simpa using hu
    have hstep : step s = .next ((rtcPerform p s).setRtcUpc (ps.map .prim ++ rest)).rtcSettle := by
      rw [step_rtc ht hd hb, rtcMicroStep, hu', ← rtcPerform_setRtcUpc]
    rw [List.length_cons, steps_succ _ hstep]
    by_cases hnil : ps = []
    · subst hnil; rfl
    · have hne : ps.map RtcMicro.prim ++ rest ≠ [] := by simp [hnil]
      rw [rtcSettle_of_ne (by simpa using hne)]
      obtain ⟨f1, -, f3, -, -, f6, -⟩ := rtcPerform_frame p s
      rw [ih hnil ((rtcPerform p s).setRtcUpc (ps.map RtcMicro.prim ++ rest)) (f3.trans ht)
        ((congrArg DhtEngine.busy f1).trans hd) (f6.trans hb) rfl, performAll_setRtcUpc, performAll_cons]

/-! ### Bytes on the wire -/

theorem range_seven : List.range 7 = [0, 1, 2, 3, 4, 5, 6] := rfl

theorem range_eight : List.range 8 = [0, 1, 2, 3, 4, 5, 6, 7] := rfl

/-- What a stretch of RTC events leaves as it was, and how the history and the oracle went on: `evs` were recorded and
`n` levels were drawn. -/
structure RtcRan (clk dio ce : PinId) (evs : List (Event PinId)) (n : Nat) (s t : State) : Prop where
  dht : t.dht = s.dht
  pulls : t.pulls = s.pulls
  pending : t.pending = s.pending
  turns : t.turns = s.turns
  pollBound : t.pollBound = s.pollBound
  hist : t.hist = s.hist ++ entriesOf .rtc evs
  oracle : t.oracle = s.oracle.dropLevels n
  busy : t.rtc.busy = s.rtc.busy
  ret : t.rtc.ret = s.rtc.ret
  clkPin : t.rtc.clkPin = s.rtc.clkPin
  dioPin : t.rtc.dioPin = s.rtc.dioPin
  cePin : t.rtc.cePin = s.rtc.cePin
  otherPins : ∀ q, q ≠ clk → q ≠ dio → q ≠ ce → t.mode q = s.mode q

theorem RtcRan.trans {clk dio ce : PinId} {e₁ e₂ : List (Event PinId)} {m n : Nat} {s t u : State}
    (h₁ : RtcRan clk dio ce e₁ m s t) (h₂ : RtcRan clk dio ce e₂ n t u) :
    RtcRan clk dio ce (e₁ ++ e₂) (m + n) s u where
  dht := h₂.dht.trans h₁.dht
  pulls := h₂.pulls.trans h₁.pulls
  pending := h₂.pending.trans h₁.pending
  turns := h₂.turns.trans h₁.turns
  pollBound := h₂.pollBound.trans h₁.pollBound
  hist := by rw [h₂.hist, h₁.hist]; simp [entriesOf]
  oracle := by rw [h₂.oracle, h₁.oracle, dropLevels_dropLevels]
  busy := h₂.busy.trans h₁.busy
  ret := h₂.ret.trans h₁.ret
  clkPin := h₂.clkPin.trans h₁.clkPin
  dioPin := h₂.dioPin.trans h₁.dioPin
  cePin := h₂.cePin.trans h₁.cePin
  otherPins := fun q a b c => (h₂.otherPins q a b c).trans (h₁.otherPins q a b c)

/-- `UPC` is not among what a stretch is judged by. -/
theorem RtcRan.setRtcUpc {clk dio ce : PinId} {evs : List (Event PinId)} {n : Nat} {s t : State}
    (h : RtcRan clk dio ce evs n s t) (u v : List (RtcMicro PinId)) :
    RtcRan clk dio ce evs n (s.setRtcUpc u) (t.setRtcUpc v) where
  __ := h

theorem RtcRan.lines {clk dio ce : PinId} {evs : List (Event PinId)} {n : Nat} {s t : State}
    (h : RtcRan clk dio ce evs n s t) : t.rtc.lines = s.rtc.lines := by
  simp [RtcEngine.lines, h.clkPin, h.dioPin, h.cePin]

/-- The registers after a byte was shifted out (R162). -/
theorem shiftOut_rtc (clk dio : PinId) (last : AfterPulse) (s : State) :
    (performAll (shiftOut dio clk last) s).rtc = last.apply { s.rtc with shcnt := 8 } := by
  simp [shiftOut, shiftOutBit, range_seven, rtcPerform, AfterPulse.apply]

/-- The pins after a byte was shifted out: the clock is low, the data line holds bit 7 (R162, R173). -/
theorem shiftOut_mode (clk dio : PinId) (last : AfterPulse) (s : State) (q : PinId) :
    (performAll (shiftOut dio clk last) s).mode q =
      if q = clk then .out0 else if q = dio then driveMode (s.rtc.sr.getLsbD 7) else s.mode q := by
  simp only [shiftOut, shiftOutBit, range_seven, rtcPerform, AfterPulse.apply, State.mode, List.flatMap_cons,
    List.flatMap_nil, List.append_nil, List.cons_append, List.nil_append, performAll_cons, performAll_nil, setRtc_modes,
    drive_modes, drive_rtc, setRtc_rtc, pinGet_set]
  split
  · rfl
  · split <;> rfl

/-- A byte shifted out (R162). -/
theorem shiftOut_ran (clk dio ce : PinId) (last : AfterPulse) (s : State) :
    RtcRan clk dio ce (shiftOutEvents clk dio s.rtc.sr) 0 s (performAll (shiftOut dio clk last) s) where
  otherPins := fun q a b _ => by rw [shiftOut_mode, if_neg a, if_neg b]
  busy := by rw [shiftOut_rtc]; cases last <;> rfl
  ret := by rw [shiftOut_rtc]; cases last <;> rfl
  clkPin := by rw [shiftOut_rtc]; cases last <;> rfl
  dioPin := by rw [shiftOut_rtc]; cases last <;> rfl
  cePin := by rw [shiftOut_rtc]; cases last <;> rfl
  dht := by simp [shiftOut, shiftOutBit, range_seven, rtcPerform]
  pulls := by simp [shiftOut, shiftOutBit, range_seven, rtcPerform]
  pending := by simp [shiftOut, shiftOutBit, range_seven, rtcPerform]
  turns := by simp [shiftOut, shiftOutBit, range_seven, rtcPerform]
  pollBound := by simp [shiftOut, shiftOutBit, range_seven, rtcPerform]
  oracle := by simp [shiftOut, shiftOutBit, range_seven, rtcPerform]
  hist := by
    simp [shiftOut, shiftOutBit, range_seven, range_eight, rtcPerform, AfterPulse.apply, entriesOf, shiftOutEvents]

/-- The sum of eight sampled bits, added one at a time (R163). -/
theorem sampledByte_sum (b₀ b₁ b₂ b₃ b₄ b₅ b₆ b₇ : Bool) :
    (0#8 + BitVec.ofNat 8 (b₀.toNat * 2 ^ 0) + BitVec.ofNat 8 (b₁.toNat * 2 ^ 1) + BitVec.ofNat 8 (b₂.toNat * 2 ^ 2) +
      BitVec.ofNat 8 (b₃.toNat * 2 ^ 3) + BitVec.ofNat 8 (b₄.toNat * 2 ^ 4) + BitVec.ofNat 8 (b₅.toNat * 2 ^ 5) +
      BitVec.ofNat 8 (b₆.toNat * 2 ^ 6) + BitVec.ofNat 8 (b₇.toNat * 2 ^ 7)) =
    BitVec.ofNat 8 (b₀.toNat + 2 * b₁.toNat + 4 * b₂.toNat + 8 * b₃.toNat + 16 * b₄.toNat + 32 * b₅.toNat +
      64 * b₆.toNat + 128 * b₇.toNat) := by
  revert b₀ b₁ b₂ b₃ b₄ b₅ b₆ b₇; decide

/-- The registers after a byte was shifted in (R163). -/
theorem shiftIn_rtc (clk dio : PinId) (s : State) (h : s.rtc.sr = 0#8) :
    (performAll (shiftIn dio clk) s).rtc =
      { s.rtc with shcnt := 8, sr := sampledByte s.coming, raw := sampledByte s.coming } := by
  have hsum := sampledByte_sum (s.coming 0) (s.coming 1) (s.coming 2) (s.coming 3) (s.coming 4) (s.coming 5)
    (s.coming 6) (s.coming 7)
  simp only [shiftIn, shiftInBit, range_seven, rtcPerform, AfterPulse.apply, State.nextLevel, List.flatMap_cons,
    List.flatMap_nil, List.append_nil, List.cons_append, List.nil_append, performAll_cons, performAll_nil, setRtc_rtc,
    drive_rtc, drive_oracle, setRtc_oracle, sample_oracle, dropLevels_dropLevels, level_dropLevels, h,
    Nat.reduceAdd]
  unfold sampledByte
  rw [← hsum]
  rfl

/-- The pins after a byte was shifted in: the clock is low, the data line as it was (R163). -/
theorem shiftIn_mode (clk dio : PinId) (s : State) (q : PinId) :
    (performAll (shiftIn dio clk) s).mode q = if q = clk then .out0 else s.mode q := by
  simp only [shiftIn, shiftInBit, range_seven, rtcPerform, AfterPulse.apply, State.mode, List.flatMap_cons,
    List.flatMap_nil, List.append_nil, List.cons_append, List.nil_append, performAll_cons, performAll_nil, setRtc_modes,
    drive_modes, sample_modes, pinGet_set]
  split <;> rfl

/-- A byte shifted in (R163). -/
theorem shiftIn_ran (clk dio ce : PinId) (s : State) :
    RtcRan clk dio ce (shiftInEvents clk dio s.coming) 8 s (performAll (shiftIn dio clk) s) where
  otherPins := fun q a _ _ => by rw [shiftIn_mode, if_neg a]
  busy := by simp [shiftIn, shiftInBit, range_seven, rtcPerform, AfterPulse.apply]
  ret := by simp [shiftIn, shiftInBit, range_seven, rtcPerform, AfterPulse.apply]
  clkPin := by simp [shiftIn, shiftInBit, range_seven, rtcPerform, AfterPulse.apply]
  dioPin := by simp [shiftIn, shiftInBit, range_seven, rtcPerform, AfterPulse.apply]
  cePin := by simp [shiftIn, shiftInBit, range_seven, rtcPerform, AfterPulse.apply]
  dht := by simp [shiftIn, shiftInBit, range_seven, rtcPerform]
  pulls := by simp [shiftIn, shiftInBit, range_seven, rtcPerform]
  pending := by simp [shiftIn, shiftInBit, range_seven, rtcPerform]
  turns := by simp [shiftIn, shiftInBit, range_seven, rtcPerform]
  pollBound := by simp [shiftIn, shiftInBit, range_seven, rtcPerform]
  oracle := by simp [shiftIn, shiftInBit, range_seven, rtcPerform]
  hist := by
    simp [shiftIn, shiftInBit, range_seven, range_eight, rtcPerform, entriesOf, shiftInEvents, State.coming,
      State.nextLevel]

/-! ### Transactions (R165, R166) -/

/-- A write command of R52's map, even, below 0x8F or in the RAM range. -/
def isWriteCommand (c : Byte) : Bool := isEngineCommand c && !c.getLsbD 0

/-- A read command that an operation sends (30_encoding.md R83). -/
def isReadCommand (c : Byte) : Bool := isEngineCommand c && c.getLsbD 0

/-- Fetching a write command of the map opens its write transaction. -/
theorem fetch_write (c v : Byte) (s : State) (hc : isWriteCommand c = true) :
    rtcFetch exec c (decodeWireWrite c v) s = wireWrite none c v s := by
  have key : ∀ n, n < 256 → isWriteCommand (BitVec.ofNat 8 n) = true →
      rtcFetch exec (BitVec.ofNat 8 n) (decodeWireWrite (BitVec.ofNat 8 n) v) s =
        wireWrite none (BitVec.ofNat 8 n) v s := by
    intro n hn h
    interval_cases n <;> first | rfl | exact absurd h (by decide)
  simpa using key c.toNat c.isLt (by simpa using hc)

/-- Fetching a read command of the map opens its read transaction. -/
theorem fetch_read (c : Byte) (s : State) (hc : isReadCommand c = true) :
    rtcFetch exec c (decodeWireRead c) s = wireRead none c s := by
  have key : ∀ n, n < 256 → isReadCommand (BitVec.ofNat 8 n) = true →
      rtcFetch exec (BitVec.ofNat 8 n) (decodeWireRead (BitVec.ofNat 8 n)) s = wireRead none (BitVec.ofNat 8 n) s := by
    intro n hn h
    interval_cases n <;> first | rfl | exact absurd h (by decide)
  simpa using key c.toNat c.isLt (by simpa using hc)

/-- The state after the first step of a transaction (R165, R166): `CE` is high and `SR` holds the command. -/
def State.txnOpened (s : State) (ce : PinId) (cmd : Byte) (prog : List (RtcMicro PinId)) : State :=
  (s.drive .rtc ce true).setRtc { s.rtc with sr := cmd, shcnt := 0, busy := true, upc := prog }

/-- The first step of a transaction on a bound engine. -/
theorem wireTransaction_next {s : State} {clk dio ce : PinId} (cmd : Byte)
    (body : PinId → PinId → PinId → List (RtcPrim PinId)) (hl : s.rtc.lines = some (clk, dio, ce)) :
    wireTransaction none cmd body s =
      .next (s.txnOpened ce cmd ((body clk dio ce).map .prim ++ s.rtc.upc)) := by
  simp only [wireTransaction, hl, State.txnOpened]

/-- `CE` rises. -/
theorem txnOpened_ran (clk dio : PinId) {ce : PinId} (cmd : Byte) (prog : List (RtcMicro PinId)) {s : State}
    (hb : s.rtc.busy = true) : RtcRan clk dio ce [.drive ce true] 0 s (s.txnOpened ce cmd prog) where
  dht := rfl
  pulls := rfl
  pending := rfl
  turns := rfl
  pollBound := rfl
  hist := rfl
  oracle := by simp [State.txnOpened]
  busy := by simp [State.txnOpened, hb]
  ret := rfl
  clkPin := rfl
  dioPin := rfl
  cePin := rfl
  otherPins := fun q _ _ c => (drive_mode s .rtc ce true q).trans (if_neg c)

/-- `CE` falls. -/
theorem ceLow_ran (clk dio ce : PinId) (s : State) :
    RtcRan clk dio ce [.drive ce false] 0 s (s.drive .rtc ce false) where
  dht := rfl
  pulls := rfl
  pending := rfl
  turns := rfl
  pollBound := rfl
  hist := rfl
  oracle := by simp
  busy := rfl
  ret := rfl
  clkPin := rfl
  dioPin := rfl
  cePin := rfl
  otherPins := fun q _ _ c => (drive_mode s .rtc ce false q).trans (if_neg c)

/-- The data line is released before the answer (R165). -/
theorem releaseDio_ran (clk dio ce : PinId) (s : State) :
    RtcRan clk dio ce [.release dio false] 0 s (rtcPerform (.releaseDio dio) s) where
  dht := rfl
  pulls := rfl
  pending := rfl
  turns := rfl
  pollBound := rfl
  hist := rfl
  oracle := by simp [rtcPerform]
  busy := rfl
  ret := rfl
  clkPin := rfl
  dioPin := rfl
  cePin := rfl
  otherPins := fun q _ b _ => (release_mode s .rtc dio false q).trans (if_neg b)

/-- The data line is then an input (R102, R173). -/
theorem releaseDio_mode (dio : PinId) (s : State) : (rtcPerform (.releaseDio dio) s).mode dio = .input :=
  (release_mode s .rtc dio false dio).trans (if_pos rfl)

/-- A write transaction, `v` being the byte written: its first event, then 49 steps (R166, R173). -/
theorem wireWrite_steps {s : State} {clk dio ce : PinId} (cmd v : Byte)
    (ht : s.turns = []) (hd : s.dht.busy = false) (hb : s.rtc.busy = true) (hl : s.rtc.lines = some (clk, dio, ce))
    (hcd : clk ≠ dio) (hce : clk ≠ ce) (hde : dio ≠ ce) :
    ∃ s₁ t, wireWrite none cmd v s = .next s₁ ∧ steps 49 s₁ = .next (t.setRtcUpc s.rtc.upc).rtcSettle ∧
      s₁ = s.txnOpened ce cmd ((writeBody clk dio ce v).map .prim ++ s.rtc.upc) ∧
      RtcRan clk dio ce (writeEvents clk dio ce cmd v) 0 s t ∧
      t.rtc.sr = v ∧ t.rtc.shcnt = 8 ∧ t.rtc.raw = s.rtc.raw ∧
      t.mode ce = .out0 ∧ t.mode clk = .out0 ∧ t.mode dio = driveMode (v.getLsbD 7) := by
  let s₁ := s.txnOpened ce cmd ((writeBody clk dio ce v).map .prim ++ s.rtc.upc)
  let t₁ := performAll (shiftOut dio clk (.load v)) s₁
  let t₂ := performAll (shiftOut dio clk .nothing) t₁
  let t := t₂.drive .rtc ce false
  have ht₁ : t₁.rtc = { s₁.rtc with sr := v, shcnt := 0 } := by
    simp only [t₁, shiftOut_rtc, AfterPulse.apply]
  have ht₂ : t₂.rtc = { s₁.rtc with sr := v, shcnt := 8 } := by
    simp only [t₂, shiftOut_rtc, AfterPulse.apply, ht₁]
  have hall : performAll (writeBody clk dio ce v) s₁ = t := by
    simp only [writeBody, performAll_append]; rfl
  have hran : RtcRan clk dio ce (writeEvents clk dio ce cmd v) 0 s t := by
    have h₁ : RtcRan clk dio ce [.drive ce true] 0 s s₁ := txnOpened_ran clk dio cmd s₁.rtc.upc hb
    have h₂ := shiftOut_ran clk dio ce (.load v) s₁
    have h₃ := shiftOut_ran clk dio ce .nothing t₁
    rw [show t₁.rtc.sr = v by rw [ht₁]] at h₃
    exact ((h₁.trans h₂).trans h₃).trans (ceLow_ran clk dio ce t₂)
  refine ⟨s₁, t, wireTransaction_next cmd (fun a b c => writeBody a b c v) hl, ?_, rfl, hran, ?_, ?_, ?_, ?_, ?_, ?_⟩
  · have hlen : (writeBody clk dio ce v).length = 49 := rfl
    have := steps_prims (writeBody clk dio ce v) s.rtc.upc (by simp [writeBody]) s₁ ht hd rfl rfl
    rwa [hlen, hall] at this
  · simp only [t, drive_rtc, ht₂]
  · simp only [t, drive_rtc, ht₂]
  · simp only [t, drive_rtc, ht₂]; rfl
  · simp only [t, drive_mode, if_true]; rfl
  · simp only [t, drive_mode, if_neg hce, t₂, shiftOut_mode, if_true]
  · simp only [t, drive_mode, if_neg hde, t₂, shiftOut_mode, if_neg (Ne.symm hcd), if_true, ht₁]

/-- A read transaction: its first event, then 50 steps; the byte is that of the next eight levels (R165, R173). -/
theorem wireRead_steps {s : State} {clk dio ce : PinId} (cmd : Byte)
    (ht : s.turns = []) (hd : s.dht.busy = false) (hb : s.rtc.busy = true) (hl : s.rtc.lines = some (clk, dio, ce))
    (hcd : clk ≠ dio) (hce : clk ≠ ce) (hde : dio ≠ ce) :
    ∃ s₁ t, wireRead none cmd s = .next s₁ ∧ steps 50 s₁ = .next (t.setRtcUpc s.rtc.upc).rtcSettle ∧
      s₁ = s.txnOpened ce cmd ((readBody clk dio ce).map .prim ++ s.rtc.upc) ∧
      RtcRan clk dio ce (readEvents clk dio ce cmd s.coming) 8 s t ∧
      t.rtc.sr = sampledByte s.coming ∧ t.rtc.shcnt = 8 ∧ t.rtc.raw = sampledByte s.coming ∧
      t.mode ce = .out0 ∧ t.mode clk = .out0 ∧ t.mode dio = .input := by
  let s₁ := s.txnOpened ce cmd ((readBody clk dio ce).map .prim ++ s.rtc.upc)
  let t₁ := performAll (shiftOut dio clk .nothing) s₁
  let t₂ := rtcPerform (.releaseDio dio) t₁
  let t₃ := performAll (shiftIn dio clk) t₂
  let t := t₃.drive .rtc ce false
  have h₁ : RtcRan clk dio ce [.drive ce true] 0 s s₁ := txnOpened_ran clk dio cmd s₁.rtc.upc hb
  have h₂ : RtcRan clk dio ce (shiftOutEvents clk dio cmd) 0 s₁ t₁ := shiftOut_ran clk dio ce .nothing s₁
  have h₃ : RtcRan clk dio ce [.release dio false] 0 t₁ t₂ := releaseDio_ran clk dio ce t₁
  have h₁₃ := (h₁.trans h₂).trans h₃
  have hcom : t₂.coming = s.coming := by
    funext n
    simp only [State.coming, h₁₃.oracle, level_dropLevels, Nat.add_zero, Nat.zero_add]
  have h₄ := shiftIn_ran clk dio ce t₂
  rw [hcom] at h₄
  have ht₃ : t₃.rtc = { t₂.rtc with shcnt := 8, sr := sampledByte s.coming, raw := sampledByte s.coming } := by
    rw [← hcom]; exact shiftIn_rtc clk dio t₂ rfl
  have hall : performAll (readBody clk dio ce) s₁ = t := by
    simp only [readBody, performAll_append, performAll_cons]; rfl
  refine ⟨s₁, t, wireTransaction_next cmd readBody hl, ?_, rfl, (h₁₃.trans h₄).trans (ceLow_ran clk dio ce t₃),
    ?_, ?_, ?_, ?_, ?_, ?_⟩
  · have hlen : (readBody clk dio ce).length = 50 := rfl
    have := steps_prims (readBody clk dio ce) s.rtc.upc (by simp [readBody]) s₁ ht hd rfl rfl
    rwa [hlen, hall] at this
  · simp only [t, drive_rtc, ht₃]
  · simp only [t, drive_rtc, ht₃]
  · simp only [t, drive_rtc, ht₃]
  · simp only [t, drive_mode, if_true]; rfl
  · simp only [t, drive_mode, if_neg hce, t₃, shiftIn_mode, if_true]
  · simp only [t, drive_mode, if_neg hde, t₃, shiftIn_mode, if_neg (Ne.symm hcd), t₂, releaseDio_mode dio t₁]

/-- A write transaction of a micro-program: 50 steps from its fetch (R166). -/
theorem steps_txnWrite {s : State} {clk dio ce : PinId} {cmd : Byte} {src : ByteSource} {rest : List (RtcMicro PinId)}
    (ht : s.turns = []) (hd : s.dht.busy = false) (hb : s.rtc.busy = true) (hl : s.rtc.lines = some (clk, dio, ce))
    (hcd : clk ≠ dio) (hce : clk ≠ ce) (hde : dio ≠ ce) (hc : isWriteCommand cmd = true)
    (hu : s.rtc.upc = .txnWrite cmd src :: rest) :
    ∃ t, steps 50 s = .next (t.setRtcUpc rest).rtcSettle ∧
      RtcRan clk dio ce (writeEvents clk dio ce cmd (src.value s.rtc.raw)) 0 s t ∧
      t.rtc.sr = src.value s.rtc.raw ∧ t.rtc.shcnt = 8 ∧ t.rtc.raw = s.rtc.raw ∧
      t.mode ce = .out0 ∧ t.mode clk = .out0 ∧ t.mode dio = driveMode ((src.value s.rtc.raw).getLsbD 7) := by
  obtain ⟨s₁, t, h₁, h₂, -, h₃, h₄⟩ := wireWrite_steps (s := s.setRtcUpc rest) cmd (src.value s.rtc.raw) ht hd hb
    hl hcd hce hde
  refine ⟨t, ?_, h₃.setRtcUpc s.rtc.upc t.rtc.upc, h₄⟩
  rw [steps_succ (t := s₁) 49]
  · exact h₂
  · rw [step_rtc ht hd hb, rtcMicroStep, hu, ← h₁]
    exact fetch_write _ _ _ hc

/-- A read transaction of a micro-program: 51 steps from its fetch (R165). -/
theorem steps_txnRead {s : State} {clk dio ce : PinId} {cmd : Byte} {rest : List (RtcMicro PinId)}
    (ht : s.turns = []) (hd : s.dht.busy = false) (hb : s.rtc.busy = true) (hl : s.rtc.lines = some (clk, dio, ce))
    (hcd : clk ≠ dio) (hce : clk ≠ ce) (hde : dio ≠ ce) (hc : isReadCommand cmd = true)
    (hu : s.rtc.upc = .txnRead cmd :: rest) :
    ∃ t, steps 51 s = .next (t.setRtcUpc rest).rtcSettle ∧
      RtcRan clk dio ce (readEvents clk dio ce cmd s.coming) 8 s t ∧
      t.rtc.sr = sampledByte s.coming ∧ t.rtc.shcnt = 8 ∧ t.rtc.raw = sampledByte s.coming ∧
      t.mode ce = .out0 ∧ t.mode clk = .out0 ∧ t.mode dio = .input := by
  obtain ⟨s₁, t, h₁, h₂, -, h₃, h₄⟩ := wireRead_steps (s := s.setRtcUpc rest) cmd ht hd hb hl hcd hce hde
  refine ⟨t, ?_, h₃.setRtcUpc s.rtc.upc t.rtc.upc, h₄⟩
  rw [steps_succ (t := s₁) 50]
  · exact h₂
  · rw [step_rtc ht hd hb, rtcMicroStep, hu, ← h₁]
    exact fetch_read _ _ hc

/-- A guarded write of a micro-program: unlock, write, relock, 150 steps (R167). -/
theorem steps_guardedWrite {s : State} {clk dio ce : PinId} {w : Byte} {src : ByteSource} {rest : List (RtcMicro PinId)}
    (ht : s.turns = []) (hd : s.dht.busy = false) (hb : s.rtc.busy = true) (hl : s.rtc.lines = some (clk, dio, ce))
    (hcd : clk ≠ dio) (hce : clk ≠ ce) (hde : dio ≠ ce) (hc : isWriteCommand w = true)
    (hu : s.rtc.upc = guardedWrite w src ++ rest) :
    ∃ t, steps 150 s = .next (t.setRtcUpc rest).rtcSettle ∧
      RtcRan clk dio ce (guardedEvents clk dio ce w (src.value s.rtc.raw)) 0 s t ∧
      t.rtc.sr = 0x80#8 ∧ t.rtc.shcnt = 8 ∧ t.rtc.raw = s.rtc.raw ∧
      t.mode ce = .out0 ∧ t.mode clk = .out0 ∧ t.mode dio = .out1 := by
  have hwp : isWriteCommand Config.wpCommand = true := by decide
  have hu' : s.rtc.upc = .txnWrite Config.wpCommand (.imm Config.wpClear) :: (.txnWrite w src ::
    (.txnWrite Config.wpCommand (.imm Config.wpSet) :: rest)) := hu
  obtain ⟨a, ha, ra, -, -, hra, -⟩ := steps_txnWrite ht hd hb hl hcd hce hde hwp hu'
  rw [rtcSettle_of_ne (by simp)] at ha
  obtain ⟨b, hb', rb, -, -, hrb, -⟩ := steps_txnWrite (s := a.setRtcUpc (.txnWrite w src :: (.txnWrite Config.wpCommand
    (.imm Config.wpSet) :: rest))) (ra.turns.trans ht) ((congrArg DhtEngine.busy ra.dht).trans hd) (ra.busy.trans hb)
    (ra.lines.trans hl) hcd hce hde hc rfl
  rw [rtcSettle_of_ne (by simp)] at hb'
  have rab := ra.trans (rb.setRtcUpc a.rtc.upc b.rtc.upc)
  obtain ⟨c, hc', rc, c₁, c₂, c₃, c₄⟩ := steps_txnWrite (s := b.setRtcUpc (.txnWrite Config.wpCommand
    (.imm Config.wpSet) :: rest)) (rab.turns.trans ht) ((congrArg DhtEngine.busy rab.dht).trans hd) (rab.busy.trans hb)
    (rab.lines.trans hl) hcd hce hde hwp rfl
  have hraw : (a.setRtcUpc (.txnWrite w src :: (.txnWrite Config.wpCommand (.imm Config.wpSet) :: rest))).rtc.raw =
      s.rtc.raw := hra
  rw [hraw] at rab
  refine ⟨c, ?_, rab.trans (rc.setRtcUpc b.rtc.upc c.rtc.upc), c₁, c₂, c₃.trans (hrb.trans hra), c₄.1,
    c₄.2.1, c₄.2.2.trans (show driveMode (BitVec.getLsbD Config.wpSet 7) = .out1 by decide)⟩
  rw [steps_add 50 100 ha, steps_add 50 50 hb', hc']

/-- A list of guarded writes and a last one, one after the other: 150 steps each (R167, R205). -/
theorem steps_guardedWrites {s : State} {clk dio ce : PinId}
    (ht : s.turns = []) (hd : s.dht.busy = false) (hb : s.rtc.busy = true) (hl : s.rtc.lines = some (clk, dio, ce))
    (hcd : clk ≠ dio) (hce : clk ≠ ce) (hde : dio ≠ ce) (ws : List (Byte × Byte)) (last : Byte × Byte)
    (rest : List (RtcMicro PinId)) (hws : ∀ w ∈ ws, isWriteCommand w.1 = true) (hlast : isWriteCommand last.1 = true)
    (hu : s.rtc.upc =
      ws.flatMap (fun w => guardedWrite w.1 (.imm w.2)) ++ (guardedWrite last.1 (.imm last.2) ++ rest)) :
    ∃ t, steps (150 * (ws.length + 1)) s = .next (t.setRtcUpc rest).rtcSettle ∧
      RtcRan clk dio ce (ws.flatMap (fun w => guardedEvents clk dio ce w.1 w.2) ++
        guardedEvents clk dio ce last.1 last.2) 0 s t ∧
      t.rtc.sr = 0x80#8 ∧ t.rtc.shcnt = 8 ∧ t.rtc.raw = s.rtc.raw ∧
      t.mode ce = .out0 ∧ t.mode clk = .out0 ∧ t.mode dio = .out1 := by
  induction ws generalizing s with
  | nil =>
    obtain ⟨t, a, b, c⟩ := steps_guardedWrite ht hd hb hl hcd hce hde hlast hu
    exact ⟨t, a, b, c⟩
  | cons w ws ih =>
    rw [List.flatMap_cons, List.append_assoc] at hu
    obtain ⟨t, a, b, c⟩ := steps_guardedWrite ht hd hb hl hcd hce hde (hws w (by simp)) hu
    rw [rtcSettle_of_ne (by simp [guardedWrite])] at a
    obtain ⟨u, a', b', c'⟩ := ih (s := t.setRtcUpc (ws.flatMap (fun w => guardedWrite w.1 (.imm w.2)) ++
      (guardedWrite last.1 (.imm last.2) ++ rest))) (b.turns.trans ht) ((congrArg DhtEngine.busy b.dht).trans hd)
      (b.busy.trans hb) (b.lines.trans hl) (fun x hx => hws x (by simp [hx])) rfl
    refine ⟨u, ?_, ?_, c'.1, c'.2.1, c'.2.2.1.trans c.2.2.1, c'.2.2.2⟩
    · rw [show 150 * ((w :: ws).length + 1) = 150 + 150 * (ws.length + 1) by simp; ring, steps_add 150 _ a, a']
    · rw [List.flatMap_cons, List.append_assoc]
      exact (b.trans (b'.setRtcUpc t.rtc.upc u.rtc.upc)).setRtcUpc s.rtc.upc u.rtc.upc

/-! ### Operations, from the issue to the return (40_port_primitives.md R112, R113) -/

/-- An operation with legal operands, issued on an idle bound engine, is admitted: only the engine changes. -/
theorem rtcOperation_admitted {s : State} {clk dio ce : PinId} (h : s.rtcReady clk dio ce)
    (prog : List (RtcMicro PinId)) (ret : RtcReturn) :
    rtcOperation none prog ret s = .next (s.setRtc (s.rtc.launch prog ret)) := by
  obtain ⟨hb, hl, -⟩ := h
  have h₁ : s.checkBound = none := by simp [State.checkBound, hl]
  have h₂ : s.checkRtcIdle = none := by simp [State.checkRtcIdle, hb]
  simp [rtcOperation, h₁, h₂]

/-- An operation whose micro-program was run to its end completes. -/
theorem rtcCompletes_of_ran {s u : State} {clk dio ce : PinId} {i : Instr} {prog : List (RtcMicro PinId)}
    {ret : RtcReturn} {k n : Nat} {evs : List (Event PinId)} {sr raw : Byte} {m : PinMode}
    (hi : exec i s = .next (s.setRtc (s.rtc.launch prog ret)))
    (hs : steps k (s.setRtc (s.rtc.launch prog ret)) = .next (u.setRtcUpc []).rtcSettle)
    (hr : RtcRan clk dio ce evs n (s.setRtc (s.rtc.launch prog ret)) u)
    (hsr : u.rtc.sr = sr) (hcnt : u.rtc.shcnt = 8) (hraw : u.rtc.raw = raw)
    (hce : u.mode ce = .out0) (hclk : u.mode clk = .out0) (hdio : u.mode dio = m) :
    s.rtcCompletes clk dio ce i k evs n (ret.result raw) sr raw m := by
  refine ⟨s.setRtc (s.rtc.launch prog ret), (u.setRtcUpc []).rtcSettle, hi, rfl, rfl, rfl, hs, rfl, ?_, hr.oracle,
    ⟨hr.dht, hr.pulls, hr.pending, hr.turns, hr.pollBound, hr.lines⟩, hsr, hcnt, hraw, hce, hclk, hdio, hr.otherPins⟩
  show u.hist ++ [.done .rtc (u.rtc.ret.result u.rtc.raw)] = _
  rw [hr.hist, hraw, hr.ret]; rfl

end Sys2Proof.Machine
end

