-- ==== Sys2Proof/Laws/Dht.lean ====
section
/-! SUPPORT. What one step of the DHT engine does (41_dht_sampler.md R120 to R139): its frame, the three outcomes of a
sample of a wait, the first five events of a query, the waits, and the finish with and without the diagnostic event. -/

namespace Sys2Proof.Machine

/-! ### The finish (R137, R138) -/

/-- Without the diagnostic the query returns at once. -/
theorem dhtFinish_quiet {s : State} (h : s.dht.qDiag = false) (status : Status) (elapsed : Option Clock) :
    s.dhtFinish status elapsed = s.dhtReturn status := by
  simp [State.dhtFinish, h]

/-- With the diagnostic its event comes first. -/
theorem dhtFinish_diag {s : State} (h : s.dht.qDiag = true) (status : Status) (elapsed : Option Clock) :
    s.dhtFinish status elapsed = s.dhtGoto (.emit status elapsed) := by
  simp [State.dhtFinish, h]

/-! ### A sample of a wait (40_port_primitives.md R108) -/

/-- Another level than the waited one ends the wait. -/
theorem dhtWait_done {s : State} {v : Level} (h : s.nextLevel = !v) (n : Nat) (again : Nat → DhtLabel)
    (next : DhtLabel) : s.dhtWait v n again next = (s.sample .dht s.dht.qPin).dhtGoto next := by
  have : (s.nextLevel != v) = true := by cases v <;> simp [h]
  simp [State.dhtWait, this]

/-- The waited level, before the bound, is sampled again. -/
theorem dhtWait_again {s : State} {v : Level} (h : s.nextLevel = v) (n : Nat) (again : Nat → DhtLabel) (next : DhtLabel)
    (hp : pollExpired s.pollBound (n + 1) = false) :
    s.dhtWait v n again next = (s.sample .dht s.dht.qPin).dhtGoto (again (n + 1)) := by
  simp [State.dhtWait, h, hp]

/-- The waited level at the bound ends the query (R139). -/
theorem dhtWait_timeout {s : State} {v : Level} (h : s.nextLevel = v) (n : Nat) (again : Nat → DhtLabel)
    (next : DhtLabel) (hp : pollExpired s.pollBound (n + 1) = true) :
    s.dhtWait v n again next = (s.sample .dht s.dht.qPin).dhtFinish .timeout none := by
  simp [State.dhtWait, h, hp]

/-- At a wait's label the micro-step is one sample of that wait. -/
theorem dhtMicroStep_wait {s : State} {label : Nat → DhtLabel} {v : Level} {next : DhtLabel} {n : Nat}
    (h : WaitAt label v next) (hu : s.dht.upc = label n) : dhtMicroStep s = s.dhtWait v n label next := by
  obtain ⟨rfl, rfl, rfl⟩ | ⟨rfl, rfl, rfl⟩ | ⟨k, rfl, rfl, rfl⟩ | ⟨k, rfl, rfl, rfl⟩ := h <;>
    simp only [dhtMicroStep, hu]

section
variable {s : State} {label : Nat → DhtLabel} {v : Level} {next : DhtLabel} {n : Nat} (h : WaitAt label v next)
  (ht : s.turns = []) (hb : s.dht.busy = true) (hu : s.dht.upc = label n)
include h ht hb hu

/-- The step that ends a wait. -/
theorem step_wait_done (hl : s.nextLevel = !v) : step s = .next ((s.sample .dht s.dht.qPin).dhtGoto next) := by
  rw [step_dht ht hb, dhtMicroStep_wait h hu, dhtWait_done hl]

/-- The step that goes on waiting. -/
theorem step_wait_again (hl : s.nextLevel = v) (hp : pollExpired s.pollBound (n + 1) = false) :
    step s = .next ((s.sample .dht s.dht.qPin).dhtGoto (label (n + 1))) := by
  rw [step_dht ht hb, dhtMicroStep_wait h hu, dhtWait_again hl _ _ _ hp]

/-- The step in which a wait times out. -/
theorem step_wait_timeout (hl : s.nextLevel = v) (hp : pollExpired s.pollBound (n + 1) = true) :
    step s = .next ((s.sample .dht s.dht.qPin).dhtFinish .timeout none) := by
  rw [step_dht ht hb, dhtMicroStep_wait h hu, dhtWait_timeout hl _ _ _ hp]

end

/-! ### The start of a query (R122 to R124) -/

/-- A query at label `l` before its response sample, with the pin drivers and the history as given (R122 to R124). -/
def State.startingQuery (s : State) (l : DhtLabel) (modes : List (PinId × PinMode)) (pulls : List (PinId × PullMode))
    (hist : List (Entry PinId)) : State :=
  { s with
    dht := { s.dht with t0 := s.nextClock, upc := l }, modes := modes, pulls := pulls, oracle := s.oracle.dropClock,
    hist := hist }

/-- The query after its first five events, before the response sample (R122 to R124). -/
def State.queryStarted (s : State) : State :=
  s.startingQuery .sampleResponse (pinSet .input (pinSet .input s.modes s.dht.qPin .out0) s.dht.qPin .input)
    (releasePulls s.pulls s.dht.qPin s.dht.qPull)
    (s.hist ++ entriesOf .dht
      [.now s.nextClock, .drive s.dht.qPin false, .delayMs 18, .release s.dht.qPin s.dht.qPull, .delayUs 40])

/-- The first five events of a query, one a step (R122 to R124). -/
theorem steps_queryStart {s : State} (ht : s.turns = []) (hb : s.dht.busy = true) (hu : s.dht.upc = .readStart) :
    steps 5 s = .next s.queryStarted := by
  have goes {l m p h t} (ho : dhtMicroStep (s.startingQuery l m p h) = t) :
      step (s.startingQuery l m p h) = .next t := (step_dht (s := s.startingQuery l m p h) ht hb).trans (congrArg _ ho)
  have h₁ : step s = .next (s.startingQuery .driveLow s.modes s.pulls (s.hist ++ [.port .dht (.now s.nextClock)])) := by
    rw [step_dht ht hb, dhtMicroStep, hu]; rfl
  have h₂ (m p h) : dhtMicroStep (s.startingQuery .driveLow m p h) = s.startingQuery .holdLow
      (pinSet .input m s.dht.qPin .out0) p (h ++ [.port .dht (.drive s.dht.qPin false)]) := rfl
  have h₃ (m p h) : dhtMicroStep (s.startingQuery .holdLow m p h) = s.startingQuery .releaseLine m p
      (h ++ [.port .dht (.delayMs 18)]) := rfl
  have h₄ (m p h) : dhtMicroStep (s.startingQuery .releaseLine m p h) = s.startingQuery .holdRelease
      (pinSet .input m s.dht.qPin .input) (releasePulls p s.dht.qPin s.dht.qPull)
      (h ++ [.port .dht (.release s.dht.qPin s.dht.qPull)]) := rfl
  have h₅ (m p h) : dhtMicroStep (s.startingQuery .holdRelease m p h) = s.startingQuery .sampleResponse m p
      (h ++ [.port .dht (.delayUs 40)]) := rfl
  rw [steps_succ 4 h₁, steps_succ 3 (goes (h₂ ..)), steps_succ 2 (goes (h₃ ..)), steps_succ 1 (goes (h₄ ..)),
    steps_succ 0 (goes (h₅ ..))]
  simp [steps, State.queryStarted, entriesOf]

/-- `MODE` of each pin then: the query's own pin is an input (R102). -/
theorem queryStarted_mode (s : State) (q : PinId) :
    s.queryStarted.mode q = if q = s.dht.qPin then .input else s.mode q := by
  show pinGet .input (pinSet .input (pinSet .input s.modes s.dht.qPin .out0) s.dht.qPin .input) q = _
  rw [pinGet_set, pinGet_set]; split <;> rfl

/-- `PULLM` of each pin then: the query's own pin is pulled up if it was asked for (R102). -/
theorem queryStarted_pull (s : State) (q : PinId) :
    s.queryStarted.pull q = if s.dht.qPull = true ∧ q = s.dht.qPin then .up else s.pull q := by
  show pinGet .off (releasePulls s.pulls s.dht.qPin s.dht.qPull) q = _
  cases h : s.dht.qPull <;> simp [releasePulls, State.pull, pinGet_set]

/-! ### Waits (R108) -/

/-- The answers of a wait: the waited level `n` times, then the other one. -/
theorem coming_waitAnswers {s : State} {v : Level} {n : Nat} {rest : List Level}
    (h : s.oracle.levels = waitAnswers v n ++ rest) : (∀ j, j < n → s.coming j = v) ∧ s.coming n = !v := by
  constructor
  · intro j hj
    simp [State.coming, Oracle.level, h, waitAnswers, hj, List.getElem?_append]
  · simp [State.coming, Oracle.level, h, waitAnswers]

/-- The state of a wait that has taken `n` more samples, all of the waited level, and stands at label `l`. -/
def State.waitedOn (s : State) (l : DhtLabel) (v : Level) (n : Nat) : State :=
  { s with
    dht := { s.dht with upc := l }, oracle := s.oracle.dropLevels n,
    hist := s.hist ++ entriesOf .dht (samplesOf s.dht.qPin v n) }

/-- While the level is the waited one and the bound is not reached, a wait only samples. -/
theorem steps_waiting {s : State} {label : Nat → DhtLabel} {v : Level} {next : DhtLabel} (h : WaitAt label v next)
    (hb : s.dht.busy = true) (ht : s.turns = []) (n m : Nat) (hu : s.dht.upc = label m)
    (hc : ∀ j, j < n → s.coming j = v) (hp : ∀ b, s.pollBound = some b → n = 0 ∨ m + n < b) :
    steps n s = .next (s.waitedOn (label (m + n)) v n) := by
  induction n generalizing s m with
  | zero => simp [steps, State.waitedOn, samplesOf, entriesOf, ← hu]
  | succ n ih =>
    have hexp : pollExpired s.pollBound (m + 1) = false := by
      unfold pollExpired
      cases hq : s.pollBound with
      | none => rfl
      | some b => have := hp b hq; simp; omega
    have hv : s.nextLevel = v := hc 0 (by omega)
    rw [steps_succ n (step_wait_again h ht hb hu hv hexp),
      ih (s := (s.sample .dht s.dht.qPin).dhtGoto (label (m + 1))) hb ht (m + 1) rfl ?_ ?_]
    · simp only [State.waitedOn, State.dhtGoto, setDht_dht, setDht_oracle, setDht_hist, sample_hist, sample_oracle,
        dropLevels_dropLevels, Host.Outcome.next.injEq, show m + 1 + n = m + (n + 1) by ring, Nat.add_comm 1 n,
        samplesOf, entriesOf, List.replicate_succ, List.map_cons, List.append_assoc, hv]
      rfl
    · intro j hj
      show (s.oracle.dropLevels 1).level j = v
      rw [level_dropLevels, Nat.add_comm]
      exact hc (j + 1) (by omega)
    · intro b hq
      have := hp b hq
      omega

/-! ### What a micro-step leaves (R111, R20) -/

/-- The finish leaves everything but the engine and the history. -/
theorem dhtFinish_frame (s : State) (status : Status) (elapsed : Option Clock) :
    (s.dhtFinish status elapsed).rtc = s.rtc ∧ (s.dhtFinish status elapsed).modes = s.modes ∧
      (s.dhtFinish status elapsed).pulls = s.pulls ∧ (s.dhtFinish status elapsed).oracle = s.oracle ∧
      (s.dhtFinish status elapsed).pending = s.pending ∧ (s.dhtFinish status elapsed).turns = s.turns ∧
      (s.dhtFinish status elapsed).pollBound = s.pollBound := by
  unfold State.dhtFinish
  split <;> exact ⟨rfl, rfl, rfl, rfl, rfl, rfl, rfl⟩

/-- A sample of a wait leaves everything but the engine, the oracle and the history. -/
theorem dhtWait_frame (s : State) (v : Level) (n : Nat) (again : Nat → DhtLabel) (next : DhtLabel) :
    (s.dhtWait v n again next).rtc = s.rtc ∧ (s.dhtWait v n again next).modes = s.modes ∧
      (s.dhtWait v n again next).pulls = s.pulls ∧ (s.dhtWait v n again next).pending = s.pending ∧
      (s.dhtWait v n again next).turns = s.turns ∧ (s.dhtWait v n again next).pollBound = s.pollBound := by
  by_cases h : s.nextLevel = !v
  · rw [dhtWait_done h]; exact ⟨rfl, rfl, rfl, rfl, rfl, rfl⟩
  · have h : s.nextLevel = v := by cases v <;> simpa using h
    cases hp : pollExpired s.pollBound (n + 1)
    · rw [dhtWait_again h _ _ _ hp]; exact ⟨rfl, rfl, rfl, rfl, rfl, rfl⟩
    · rw [dhtWait_timeout h _ _ _ hp]
      obtain ⟨a, b, c, -, d, e, f⟩ := dhtFinish_frame (s.sample .dht s.dht.qPin) .timeout none
      exact ⟨a, b, c, d, e, f⟩

/-- A micro-step of the DHT engine leaves the RTC engine and the model's inputs other than the oracle. -/
theorem dhtMicroStep_frame (s : State) :
    (dhtMicroStep s).rtc = s.rtc ∧ (dhtMicroStep s).pending = s.pending ∧ (dhtMicroStep s).turns = s.turns ∧
      (dhtMicroStep s).pollBound = s.pollBound := by
  unfold dhtMicroStep
  cases s.dht.upc with
  | presenceLow n | presenceHigh n | bitHigh k n | bitLow k n =>
    exact ⟨(dhtWait_frame ..).1, (dhtWait_frame ..).2.2.2.1, (dhtWait_frame ..).2.2.2.2⟩
  | sampleResponse =>
    simp only [State.dhtSampleResponse]
    split
    · obtain ⟨a, -, -, -, d⟩ := dhtFinish_frame (s.sample .dht s.dht.qPin) .noResponse none
      exact ⟨a, d⟩
    · exact ⟨rfl, rfl, rfl, rfl⟩
  | readEnd =>
    obtain ⟨a, -, -, -, d⟩ := dhtFinish_frame ((s.now .dht).setDht (s.dht.publish s.nextClock))
      (frameStatus (checksumOk (pack s.dht.frame))) (some (s.nextClock - s.dht.t0))
    exact ⟨a, d⟩
  | _ => exact ⟨rfl, rfl, rfl, rfl⟩

end Sys2Proof.Machine
end

