-- ==== Sys2Proof/Laws/Peers.lean ====
section
/-! SUPPORT. The reference DS1302's memory (20_memory.md R62): its canonical form is kept, and a read after a write. -/

namespace Sys2Proof.Machine

/-- No byte written is the canonical form. -/
theorem memory_wf_nil : Memory.wf [] := List.Pairwise.nil

/-- The cell of `a` holds what was listed for it, every other cell what it held. -/
theorem pinGet_insert {dflt : Byte} (m : Memory) (a c : Nat) (b : Byte) :
    pinGet dflt (m.insert a b) c = if c = a then b else pinGet dflt m c := by
  induction m with
  | nil => simp [Memory.insert, pinGet, eq_comm]
  | cons e rest ih =>
    simp only [Memory.insert]
    split
    · simp [pinGet, eq_comm]
    · split
      · next h => subst h; simp only [pinGet, eq_comm]; split <;> rfl
      · next h =>
        simp only [pinGet, ih]
        by_cases hc : e.1 = c
        · subst hc; simp [Ne.symm h]
        · simp [hc]

theorem mem_insert {m : Memory} {a : Nat} {b : Byte} {e : Host.Cell} (h : e ∈ m.insert a b) : e = (a, b) ∨ e ∈ m := by
  induction m with
  | nil => simpa [Memory.insert] using h
  | cons x rest ih =>
    simp only [Memory.insert] at h
    split at h
    · simpa using h
    · split at h
      · simp only [List.mem_cons] at h ⊢; tauto
      · simp only [List.mem_cons] at h ⊢
        rcases h with h | h
        · exact .inr (.inl h)
        · exact (ih h).imp_right .inr

/-- Writing keeps the canonical form. -/
theorem memory_write_wf {m : Memory} (hm : Memory.wf m) (a : Nat) (b : Byte) : Memory.wf (m.write a b) := by
  induction m with
  | nil => simp [Memory.write, Memory.insert]
  | cons x rest ih =>
    obtain ⟨hx, hrest⟩ := List.pairwise_cons.1 hm
    simp only [Memory.write, Memory.insert]
    split
    · next h =>
      refine List.pairwise_cons.2 ⟨fun e he => ?_, hm⟩
      rcases List.mem_cons.1 he with rfl | he
      · exact h
      · exact h.trans (hx e he)
    · next h =>
      split
      · next heq => subst heq; exact List.pairwise_cons.2 ⟨hx, hrest⟩
      · next hne =>
        refine List.pairwise_cons.2 ⟨fun e he => ?_, ih hrest⟩
        rcases mem_insert he with rfl | he
        · exact lt_of_le_of_ne (Nat.le_of_not_lt h) (Ne.symm hne)
        · exact hx e he

/-- A write is read back, and leaves every other address. -/
theorem memory_read_write (m : Memory) (a c : Nat) (b : Byte) :
    (m.write a b).read c = if c = a then b else m.read c := pinGet_insert m a c b

/-- The peer's own effect of a write transaction keeps the canonical form. -/
theorem ds1302_store_wf {m : Memory} (h : Memory.wf m) (w : Nat) (b : Byte) : Memory.wf (Ds1302.store m w b) := by
  unfold Ds1302.store
  repeat' split
  · exact memory_write_wf h w b
  · exact h
  · exact memory_write_wf h w b

/-- Watching an event keeps the canonical form. -/
theorem ds1302_observe_wf {d : Ds1302} (h : Memory.wf d.dev) {Pin : Type} [DecidableEq Pin] (clk dio ce : Pin)
    (ev : Event Pin) :
    Memory.wf (d.observe clk dio ce ev).dev := by
  cases ev with
  | drive p v =>
    simp only [Ds1302.observe, Ds1302.commit]
    repeat' split
    all_goals first | exact h | exact ds1302_store_wf h _ _
  | sample p v => simp only [Ds1302.observe]; split <;> exact h
  | _ => exact h

end Sys2Proof.Machine
end

