-- ==== Sys2Proof/Tests/Slice0.lean ====
section
/-! SUPPORT. The model's own tests: an ill-formed term for each check, a word of the spec for each constructor, one step
of each instruction with the result that the spec's vectors give, and for each statement a state and operands that meet
its hypotheses. Sources: spec/30_encoding.md R72, spec/20_memory.md R52, spec/95_test_vectors.md (vector names in the
docstrings). -/

namespace Sys2Proof.Tests

open Sys2Proof.Machine

/-! ### Small states -/

/-- A value of the next state. -/
def after {α : Type} (o : Host.Outcome State Fault Refusal) (f : State → α) : Option α :=
  match o with
  | .next t => some (f t)
  | _ => none

/-- The entries that a step from a state with an empty history records. -/
def records (o : Host.Outcome State Fault Refusal) : Option (List (Entry PinId)) := after o State.hist

/-- A state with an empty history, both engines idle, the RTC engine bound to p13, p14, p15. -/
def idle : State :=
  { State.reset with
    hist := [], rtc := { RtcEngine.reset with clkPin := some 13, dioPin := some 14, cePin := some 15 } }

/-- The DHT engine busy at label `l`, the oracle answering `levels` next. -/
def dhtAt (l : DhtLabel) (levels : List Level) : State :=
  { idle with dht := { DhtEngine.reset 0 with busy := true, srsp := true, upc := l }, oracle := ⟨levels, [], 0⟩ }

/-- The RTC engine busy with `prog` left, returning `ret` of the byte `raw`. -/
def rtcAt (prog : List (RtcMicro PinId)) (raw : Byte) (ret : RtcReturn) : State :=
  { idle with rtc := { idle.rtc with busy := true, upc := prog, raw := raw, ret := ret } }

/-- The last event of every transaction (42_rtc_transactions.md R165, R166). -/
def lastPrim : RtcMicro PinId := .prim (.drive 15 false)

/-- The host's next request is `op` with `args`. -/
def asks (op : Byte) (args : List (Operand PinId)) : State := { idle with pending := [⟨op, args⟩] }

/-- A state in which both engines run: the DHT engine in the wait of bit 0, the RTC engine before its last event. -/
def bothBusy : State :=
  { rtcAt [lastPrim] 0x24#8 (.field .year) with
    dht := { DhtEngine.reset 0 with busy := true, srsp := true, upc := .bitHigh 0 0 },
    oracle := ⟨[true, false], [], 0⟩ }

/-! ### Well-formedness (30_encoding.md R71): an ill-formed term for each check -/

theorem test_ill_formed_query_var : ¬ WellFormed (Pin := PinId) (.dhtQuery 0 2 0 0) := by decide

theorem test_ill_formed_query_pull : ¬ WellFormed (Pin := PinId) (.dhtQuery 0 0 2 0) := by decide

theorem test_ill_formed_query_diag : ¬ WellFormed (Pin := PinId) (.dhtQuery 0 0 0 2) := by decide

theorem test_ill_formed_unit : ¬ WellFormed (Pin := PinId) (.dhtUnit 2) := by decide

theorem test_ill_formed_bind_clk_dio : ¬ WellFormed (Pin := PinId) (.rtcBind 1 1 2) := by decide

theorem test_ill_formed_bind_clk_ce : ¬ WellFormed (Pin := PinId) (.rtcBind 1 2 1) := by decide

theorem test_ill_formed_bind_dio_ce : ¬ WellFormed (Pin := PinId) (.rtcBind 2 1 1) := by decide

theorem test_ill_formed_setsec : ¬ WellFormed (Pin := PinId) (.rtcSetsec (2 ^ 32)) := by decide

theorem test_ill_formed_setmin : ¬ WellFormed (Pin := PinId) (.rtcSetmin (2 ^ 32)) := by decide

theorem test_ill_formed_sethour : ¬ WellFormed (Pin := PinId) (.rtcSethour (2 ^ 32)) := by decide

theorem test_ill_formed_setday : ¬ WellFormed (Pin := PinId) (.rtcSetday (2 ^ 32)) := by decide

theorem test_ill_formed_setmonth : ¬ WellFormed (Pin := PinId) (.rtcSetmonth (2 ^ 32)) := by decide

theorem test_ill_formed_setwday : ¬ WellFormed (Pin := PinId) (.rtcSetwday (2 ^ 32)) := by decide

theorem test_ill_formed_setyear : ¬ WellFormed (Pin := PinId) (.rtcSetyear (2 ^ 32)) := by decide

theorem test_ill_formed_setdt_year : ¬ WellFormed (Pin := PinId) (.rtcSetdt (2 ^ 32) 0 0 0 0 0 0) := by decide

theorem test_ill_formed_setdt_month : ¬ WellFormed (Pin := PinId) (.rtcSetdt 0 (2 ^ 32) 0 0 0 0 0) := by decide

theorem test_ill_formed_setdt_day : ¬ WellFormed (Pin := PinId) (.rtcSetdt 0 0 (2 ^ 32) 0 0 0 0) := by decide

theorem test_ill_formed_setdt_wday : ¬ WellFormed (Pin := PinId) (.rtcSetdt 0 0 0 (2 ^ 32) 0 0 0) := by decide

theorem test_ill_formed_setdt_hour : ¬ WellFormed (Pin := PinId) (.rtcSetdt 0 0 0 0 (2 ^ 32) 0 0) := by decide

theorem test_ill_formed_setdt_min : ¬ WellFormed (Pin := PinId) (.rtcSetdt 0 0 0 0 0 (2 ^ 32) 0) := by decide

theorem test_ill_formed_setdt_sec : ¬ WellFormed (Pin := PinId) (.rtcSetdt 0 0 0 0 0 0 (2 ^ 32)) := by decide

theorem test_ill_formed_rdram : ¬ WellFormed (Pin := PinId) (.rtcRdram 31) := by decide

theorem test_ill_formed_wrram_index : ¬ WellFormed (Pin := PinId) (.rtcWrram 31 0) := by decide

theorem test_ill_formed_wrram_data : ¬ WellFormed (Pin := PinId) (.rtcWrram 0 256) := by decide

theorem test_ill_formed_wire_write_ram : ¬ WellFormed (Pin := PinId) (.ds1302WriteRam 31 0x00#8) := by decide

theorem test_ill_formed_wire_read_ram : ¬ WellFormed (Pin := PinId) (.ds1302ReadRam 31) := by decide

theorem test_well_formed_bounds :
    WellFormed (Pin := PinId) (.dhtQuery 0 1 1 1) ∧ WellFormed (Pin := PinId) (.rtcSetsec (2 ^ 32 - 1)) ∧
      WellFormed (Pin := PinId) (.rtcWrram 30 255) := by decide

/-! ### Decoding: each constructor's code, written out from R72 and R52 -/

theorem test_decode_dht_query :
    decode (Pin := PinId) (.host ⟨0b00000001#8, [.pin 7, .num 1, .num 0, .num 1]⟩)
      = .ok (.dhtQuery 7 1 0 1) := by decide

theorem test_decode_dht_unit : decode (Pin := PinId) (.host ⟨0b00000010#8, [.num 1]⟩) = .ok (.dhtUnit 1) := by decide

theorem test_decode_dht_rdh : decode (Pin := PinId) (.host ⟨0b00000011#8, []⟩) = .ok .dhtRdh := by decide

theorem test_decode_dht_rdt : decode (Pin := PinId) (.host ⟨0b00000100#8, []⟩) = .ok .dhtRdt := by decide

theorem test_decode_dht_rdcs : decode (Pin := PinId) (.host ⟨0b00000101#8, []⟩) = .ok .dhtRdcs := by decide

theorem test_decode_dht_rdsr : decode (Pin := PinId) (.host ⟨0b00000110#8, []⟩) = .ok .dhtRdsr := by decide

theorem test_decode_rtc_bind :
    decode (Pin := PinId) (.host ⟨0b00010000#8, [.pin 13, .pin 14, .pin 15]⟩) = .ok (.rtcBind 13 14 15) := by decide

theorem test_decode_rtc_getsec : decode (Pin := PinId) (.host ⟨0b00010001#8, []⟩) = .ok .rtcGetsec := by decide

theorem test_decode_rtc_getmin : decode (Pin := PinId) (.host ⟨0b00010010#8, []⟩) = .ok .rtcGetmin := by decide

theorem test_decode_rtc_gethour : decode (Pin := PinId) (.host ⟨0b00010011#8, []⟩) = .ok .rtcGethour := by decide

theorem test_decode_rtc_getday : decode (Pin := PinId) (.host ⟨0b00010100#8, []⟩) = .ok .rtcGetday := by decide

theorem test_decode_rtc_getmonth : decode (Pin := PinId) (.host ⟨0b00010101#8, []⟩) = .ok .rtcGetmonth := by decide

theorem test_decode_rtc_getwday : decode (Pin := PinId) (.host ⟨0b00010110#8, []⟩) = .ok .rtcGetwday := by decide

theorem test_decode_rtc_getyear : decode (Pin := PinId) (.host ⟨0b00010111#8, []⟩) = .ok .rtcGetyear := by decide

theorem test_decode_rtc_setsec :
    decode (Pin := PinId) (.host ⟨0b00100001#8, [.num 59]⟩) = .ok (.rtcSetsec 59) := by decide

theorem test_decode_rtc_setmin :
    decode (Pin := PinId) (.host ⟨0b00100010#8, [.num 61]⟩) = .ok (.rtcSetmin 61) := by decide

theorem test_decode_rtc_sethour :
    decode (Pin := PinId) (.host ⟨0b00100011#8, [.num 23]⟩) = .ok (.rtcSethour 23) := by decide

theorem test_decode_rtc_setday :
    decode (Pin := PinId) (.host ⟨0b00100100#8, [.num 31]⟩) = .ok (.rtcSetday 31) := by decide

theorem test_decode_rtc_setmonth :
    decode (Pin := PinId) (.host ⟨0b00100101#8, [.num 13]⟩) = .ok (.rtcSetmonth 13) := by decide

theorem test_decode_rtc_setwday :
    decode (Pin := PinId) (.host ⟨0b00100110#8, [.num 7]⟩) = .ok (.rtcSetwday 7) := by decide

theorem test_decode_rtc_setyear :
    decode (Pin := PinId) (.host ⟨0b00100111#8, [.num 2024]⟩) = .ok (.rtcSetyear 2024) := by decide

theorem test_decode_rtc_setdt :
    decode (Pin := PinId) (.host ⟨0b00110000#8, [.num 2024, .num 2, .num 29, .num 4, .num 23, .num 59, .num 30]⟩) =
      .ok (.rtcSetdt 2024 2 29 4 23 59 30) := by decide

theorem test_decode_rtc_start : decode (Pin := PinId) (.host ⟨0b00110001#8, []⟩) = .ok .rtcStart := by decide

theorem test_decode_rtc_pause : decode (Pin := PinId) (.host ⟨0b00110010#8, []⟩) = .ok .rtcPause := by decide

theorem test_decode_rtc_rdram :
    decode (Pin := PinId) (.host ⟨0b01000000#8, [.num 30]⟩) = .ok (.rtcRdram 30) := by decide

theorem test_decode_rtc_wrram :
    decode (Pin := PinId) (.host ⟨0b01000001#8, [.num 5, .num 167]⟩) = .ok (.rtcWrram 5 167) := by decide

theorem test_decode_ds1302_write_sec :
    decode (Pin := PinId) (.wireWrite 0b10000000#8 0b01011001#8) = .ok (.ds1302WriteSec 0x59#8) := by decide

theorem test_decode_ds1302_read_sec : decode (Pin := PinId) (.wireRead 0b10000001#8) = .ok .ds1302ReadSec := by decide

theorem test_decode_ds1302_write_min :
    decode (Pin := PinId) (.wireWrite 0b10000010#8 0b01011001#8) = .ok (.ds1302WriteMin 0x59#8) := by decide

theorem test_decode_ds1302_read_min : decode (Pin := PinId) (.wireRead 0b10000011#8) = .ok .ds1302ReadMin := by decide

theorem test_decode_ds1302_write_hour :
    decode (Pin := PinId) (.wireWrite 0b10000100#8 0b01011001#8) = .ok (.ds1302WriteHour 0x59#8) := by decide

theorem test_decode_ds1302_read_hour : decode (Pin := PinId) (.wireRead 0b10000101#8) = .ok .ds1302ReadHour := by decide

theorem test_decode_ds1302_write_date :
    decode (Pin := PinId) (.wireWrite 0b10000110#8 0b01011001#8) = .ok (.ds1302WriteDate 0x59#8) := by decide

theorem test_decode_ds1302_read_date : decode (Pin := PinId) (.wireRead 0b10000111#8) = .ok .ds1302ReadDate := by decide

theorem test_decode_ds1302_write_month :
    decode (Pin := PinId) (.wireWrite 0b10001000#8 0b01011001#8) = .ok (.ds1302WriteMonth 0x59#8) := by decide

theorem test_decode_ds1302_read_month :
    decode (Pin := PinId) (.wireRead 0b10001001#8) = .ok .ds1302ReadMonth := by decide

theorem test_decode_ds1302_write_wday :
    decode (Pin := PinId) (.wireWrite 0b10001010#8 0b01011001#8) = .ok (.ds1302WriteWday 0x59#8) := by decide

theorem test_decode_ds1302_read_wday : decode (Pin := PinId) (.wireRead 0b10001011#8) = .ok .ds1302ReadWday := by decide

theorem test_decode_ds1302_write_year :
    decode (Pin := PinId) (.wireWrite 0b10001100#8 0b01011001#8) = .ok (.ds1302WriteYear 0x59#8) := by decide

theorem test_decode_ds1302_read_year : decode (Pin := PinId) (.wireRead 0b10001101#8) = .ok .ds1302ReadYear := by decide

theorem test_decode_ds1302_write_wp :
    decode (Pin := PinId) (.wireWrite 0b10001110#8 0b01011001#8) = .ok (.ds1302WriteWp 0x59#8) := by decide

theorem test_decode_ds1302_read_wp : decode (Pin := PinId) (.wireRead 0b10001111#8) = .ok .ds1302ReadWp := by decide

/-- Vector M2: `RAM[5]` is 0xCA. -/
theorem test_decode_ds1302_write_ram :
    decode (Pin := PinId) (.wireWrite 0b11001010#8 0b10100111#8) = .ok (.ds1302WriteRam 5 0xA7#8) := by decide

/-- Vector M4: `RAM[30]` is read by 0xFD. -/
theorem test_decode_ds1302_read_ram :
    decode (Pin := PinId) (.wireRead 0b11111101#8) = .ok (.ds1302ReadRam 30) := by decide

/-- R208: index 31 is no RAM byte. -/
theorem test_decode_burst_rejected :
    decode (Pin := PinId) (.wireRead 0b11111111#8) = .error .unmappedCommand ∧
      decode (Pin := PinId) (.wireWrite 0b11111110#8 0x00#8) = .error .unmappedCommand := by decide

/-- R51: bit 0 of a command byte is the direction. -/
theorem test_decode_wrong_direction :
    decode (Pin := PinId) (.wireRead 0b10000000#8) = .error .unmappedCommand ∧
      decode (Pin := PinId) (.wireWrite 0b10000001#8 0x00#8) = .error .unmappedCommand := by decide

/-- R73: a host opcode of 0x42 or more spells no operation. -/
theorem test_decode_wire_opcode_not_for_host :
    decode (Pin := PinId) (.host ⟨0b10000001#8, []⟩) = .error .badOpcode := by decide

theorem test_table_word_host : decodeTableWord 8 0b00010000 = some (.rtcBind 0 0 0) := by decide

theorem test_table_word_wire : decodeTableWord 8 0b11000011 = some (.ds1302ReadRam 1) := by decide

/-! ### One step of each instruction -/

/-- Vector Q3's last event, and its reading. -/
theorem test_query_response_missing :
    records (.next (dhtMicroStep { dhtAt .sampleResponse [true] with
        dht := { DhtEngine.reset 0 with busy := true, upc := .sampleResponse } })) =
      some [.port .dht (.sample 0 true), .done .dht (.reading ⟨none, none, false, false, .noResponse⟩)] := by decide

/-- R112, R122. -/
theorem test_query_pull :
    after (exec (.dhtQuery 3 1 1 0) idle) (fun t => (t.dht.qPin, t.dht.qVar, t.dht.qPull, t.dht.qDiag, t.dht.upc)) =
      some (3, .dht22, true, false, .readStart) := by decide

/-- P7's last line. -/
theorem test_unit_fahrenheit : after (exec (.dhtUnit 1) idle) (fun t => t.dht.unit) = some .fahrenheit := by decide

/-- Vector F2. -/
theorem test_unit_illegal : records (exec (.dhtUnit 2) idle) = some [.refused .operand] := by decide

/-- Vector R-1. -/
theorem test_rdh_unset : records (exec .dhtRdh idle) = some [.faulted .readUnset] := by decide

/-- Vector F9. -/
theorem test_rdh_busy : records (exec .dhtRdh (dhtAt .readEnd [])) = some [.refused .busy] := by decide

/-- Vector R-2. -/
theorem test_rdt_unset : records (exec .dhtRdt idle) = some [.faulted .readUnset] := by decide

/-- Vector R-4: not rescaled. -/
theorem test_rdt_value :
    records (exec .dhtRdt { idle with dht := { DhtEngine.reset 0 with temp := some 25000, unit := .fahrenheit } }) =
      some [.done .dht (.value 25000)] := by decide

/-- Vector R-3. -/
theorem test_rdcs : records (exec .dhtRdcs idle) = some [.done .dht (.flag false)] := by decide

/-- Vector R-3. -/
theorem test_rdsr : records (exec .dhtRdsr idle) = some [.done .dht (.flag false)] := by decide

/-- Vector F7. -/
theorem test_bind_shared : records (exec (.rtcBind 1 1 2) idle) = some [.refused .pinDistinct] := by decide

/-- R161. -/
theorem test_bind :
    after (exec (.rtcBind 2 3 4) idle) (fun t => (t.rtc.lines, t.rtc.upc)) =
      some (some (2, 3, 4), [.prim (.drive 4 false), .prim (.drive 2 false)]) := by decide

/-- Vector F8. -/
theorem test_query_shared : records (exec (.dhtQuery 14 0 1 0) idle) = some [.refused .pinShared] := by decide

theorem test_getsec :
    after (exec .rtcGetsec idle) (fun t => (t.rtc.upc, t.rtc.ret)) = some ([.txnRead 0x81#8], .field .second) :=
  by decide

/-- Vectors G1 to G8. -/
theorem test_getsec_returns :
    records (stepRtc exec (rtcAt [lastPrim] 0x5A#8 (.field .second))) =
      some [.port .rtc (.drive 15 false), .done .rtc (.number 59)] := by decide

theorem test_getmin :
    after (exec .rtcGetmin idle) (fun t => (t.rtc.upc, t.rtc.ret)) = some ([.txnRead 0x83#8], .field .minute) :=
  by decide

/-- Vectors G1 to G8. -/
theorem test_getmin_returns :
    records (stepRtc exec (rtcAt [lastPrim] 0x30#8 (.field .minute))) =
      some [.port .rtc (.drive 15 false), .done .rtc (.number 30)] := by decide

theorem test_gethour :
    after (exec .rtcGethour idle) (fun t => (t.rtc.upc, t.rtc.ret)) = some ([.txnRead 0x85#8], .field .hour) :=
  by decide

/-- Vectors G1 to G8. -/
theorem test_gethour_returns :
    records (stepRtc exec (rtcAt [lastPrim] 0x92#8 (.field .hour))) =
      some [.port .rtc (.drive 15 false), .done .rtc (.number 23)] := by decide

theorem test_getday :
    after (exec .rtcGetday idle) (fun t => (t.rtc.upc, t.rtc.ret)) = some ([.txnRead 0x87#8], .field .day) := by decide

/-- Vectors G1 to G8. -/
theorem test_getday_returns :
    records (stepRtc exec (rtcAt [lastPrim] 0x00#8 (.field .day))) =
      some [.port .rtc (.drive 15 false), .done .rtc (.number 1)] := by decide

theorem test_getmonth :
    after (exec .rtcGetmonth idle) (fun t => (t.rtc.upc, t.rtc.ret)) = some ([.txnRead 0x89#8], .field .month) :=
  by decide

/-- Vectors G1 to G8. -/
theorem test_getmonth_returns :
    records (stepRtc exec (rtcAt [lastPrim] 0x13#8 (.field .month))) =
      some [.port .rtc (.drive 15 false), .done .rtc (.number 12)] := by decide

theorem test_getwday :
    after (exec .rtcGetwday idle) (fun t => (t.rtc.upc, t.rtc.ret)) = some ([.txnRead 0x8B#8], .field .weekday) :=
  by decide

/-- Vectors G1 to G8. -/
theorem test_getwday_returns :
    records (stepRtc exec (rtcAt [lastPrim] 0x08#8 (.field .weekday))) =
      some [.port .rtc (.drive 15 false), .done .rtc (.number 7)] := by decide

theorem test_getyear :
    after (exec .rtcGetyear idle) (fun t => (t.rtc.upc, t.rtc.ret)) = some ([.txnRead 0x8D#8], .field .year) :=
  by decide

/-- Vectors G1 to G8. -/
theorem test_getyear_returns :
    records (stepRtc exec (rtcAt [lastPrim] 0xA0#8 (.field .year))) =
      some [.port .rtc (.drive 15 false), .done .rtc (.number 2099)] := by decide

/-- Vectors T1 to T7. -/
theorem test_setsec :
    after (exec (.rtcSetsec 75) idle) (fun t => t.rtc.upc) =
      some [.txnWrite 0x8E#8 (.imm 0x00#8), .txnWrite 0x80#8 (.imm 0x15#8), .txnWrite 0x8E#8 (.imm 0x80#8)] := by decide

/-- Vectors T1 to T7. -/
theorem test_setmin :
    after (exec (.rtcSetmin 61) idle) (fun t => t.rtc.upc) =
      some [.txnWrite 0x8E#8 (.imm 0x00#8), .txnWrite 0x82#8 (.imm 0x01#8), .txnWrite 0x8E#8 (.imm 0x80#8)] := by decide

/-- Vectors T1 to T7. -/
theorem test_sethour :
    after (exec (.rtcSethour 24) idle) (fun t => t.rtc.upc) =
      some [.txnWrite 0x8E#8 (.imm 0x00#8), .txnWrite 0x84#8 (.imm 0x00#8), .txnWrite 0x8E#8 (.imm 0x80#8)] := by decide

/-- Vectors T1 to T7. -/
theorem test_setday :
    after (exec (.rtcSetday 32) idle) (fun t => t.rtc.upc) =
      some [.txnWrite 0x8E#8 (.imm 0x00#8), .txnWrite 0x86#8 (.imm 0x00#8), .txnWrite 0x8E#8 (.imm 0x80#8)] := by decide

/-- Vectors T1 to T7. -/
theorem test_setmonth :
    after (exec (.rtcSetmonth 4294967295) idle) (fun t => t.rtc.upc) =
      some [.txnWrite 0x8E#8 (.imm 0x00#8), .txnWrite 0x88#8 (.imm 0x08#8), .txnWrite 0x8E#8 (.imm 0x80#8)] := by decide

/-- Vectors T1 to T7. -/
theorem test_setwday :
    after (exec (.rtcSetwday 7) idle) (fun t => t.rtc.upc) =
      some [.txnWrite 0x8E#8 (.imm 0x00#8), .txnWrite 0x8A#8 (.imm 0x07#8), .txnWrite 0x8E#8 (.imm 0x80#8)] := by decide

/-- Vectors T1 to T7. -/
theorem test_setyear :
    after (exec (.rtcSetyear 2024) idle) (fun t => t.rtc.upc) =
      some [.txnWrite 0x8E#8 (.imm 0x00#8), .txnWrite 0x8C#8 (.imm 0x24#8), .txnWrite 0x8E#8 (.imm 0x80#8)] := by decide

/-- Vector T8. -/
theorem test_set_operand : records (exec (.rtcSetsec 4294967296) idle) = some [.refused .operand] := by decide

/-- Vector T9. -/
theorem test_setdt :
    after (exec (.rtcSetdt 2024 2 29 4 23 59 30) idle) (fun t => t.rtc.upc.filter fun m => !m.isRelock) =
      some [.txnWrite 0x8E#8 (.imm 0x00#8), .txnWrite 0x8C#8 (.imm 0x24#8), .txnWrite 0x8E#8 (.imm 0x00#8),
        .txnWrite 0x88#8 (.imm 0x02#8), .txnWrite 0x8E#8 (.imm 0x00#8), .txnWrite 0x86#8 (.imm 0x29#8),
        .txnWrite 0x8E#8 (.imm 0x00#8), .txnWrite 0x8A#8 (.imm 0x04#8), .txnWrite 0x8E#8 (.imm 0x00#8),
        .txnWrite 0x84#8 (.imm 0x23#8), .txnWrite 0x8E#8 (.imm 0x00#8), .txnWrite 0x82#8 (.imm 0x59#8),
        .txnWrite 0x8E#8 (.imm 0x00#8), .txnWrite 0x80#8 (.imm 0x30#8)] := by decide

/-- Vector C-1. -/
theorem test_start :
    after (exec .rtcStart idle) (fun t => t.rtc.upc.take 3) =
      some [.txnRead 0x81#8, .txnWrite 0x8E#8 (.imm 0x00#8), .txnWrite 0x80#8 (.rawAnd 0x7F#8)] ∧
      (ByteSource.rawAnd 0x7F#8).value 0x95#8 = 0x15#8 := by decide

/-- Vector C-3. -/
theorem test_pause :
    after (exec .rtcPause idle) (fun t => t.rtc.upc.take 3) =
      some [.txnRead 0x81#8, .txnWrite 0x8E#8 (.imm 0x00#8), .txnWrite 0x80#8 (.rawOr 0x80#8)] ∧
      (ByteSource.rawOr 0x80#8).value 0x15#8 = 0x95#8 := by decide

/-- Vector M4. -/
theorem test_rdram :
    after (exec (.rtcRdram 30) idle) (fun t => (t.rtc.upc, t.rtc.ret)) = some ([.txnRead 0xFD#8], .byte) := by decide

/-- Vector M5. -/
theorem test_rdram_index : records (exec (.rtcRdram 31) idle) = some [.refused .ramIndex] := by decide

/-- Vector M3. -/
theorem test_wrram :
    after (exec (.rtcWrram 30 255) idle) (fun t => (t.rtc.upc.drop 1).take 1) = some [.txnWrite 0xFC#8 (.imm 0xFF#8)] :=
  by decide

/-- Vectors F5 and F6. -/
theorem test_wrram_order :
    records (exec (.rtcWrram 31 256) State.reset) = some [.reset, .refused .operand] ∧
      records (exec (.rtcWrram 31 0) State.reset) = some [.reset, .refused .ramIndex] := by decide

/-! ### One step of each wire command: `CE` rises and `SR` holds the command (R165, R166) -/

theorem test_ds1302_write_sec :
    after (exec (.ds1302WriteSec 0x59#8) (rtcAt [] 0x00#8 .nothing))
      (fun t => (t.rtc.sr, t.rtc.upc.length, t.mode 15)) =
      some (0x80#8, 49, .out1) := by decide

theorem test_ds1302_read_sec :
    after (exec .ds1302ReadSec (rtcAt [] 0x00#8 .byte)) (fun t => (t.rtc.sr, t.rtc.upc.length, t.mode 15)) =
      some (0x81#8, 50, .out1) := by decide

theorem test_ds1302_write_min :
    after (exec (.ds1302WriteMin 0x59#8) (rtcAt [] 0x00#8 .nothing))
      (fun t => (t.rtc.sr, t.rtc.upc.length, t.mode 15)) =
      some (0x82#8, 49, .out1) := by decide

theorem test_ds1302_read_min :
    after (exec .ds1302ReadMin (rtcAt [] 0x00#8 .byte)) (fun t => (t.rtc.sr, t.rtc.upc.length, t.mode 15)) =
      some (0x83#8, 50, .out1) := by decide

theorem test_ds1302_write_hour :
    after (exec (.ds1302WriteHour 0x59#8) (rtcAt [] 0x00#8 .nothing))
      (fun t => (t.rtc.sr, t.rtc.upc.length, t.mode 15)) =
      some (0x84#8, 49, .out1) := by decide

theorem test_ds1302_read_hour :
    after (exec .ds1302ReadHour (rtcAt [] 0x00#8 .byte)) (fun t => (t.rtc.sr, t.rtc.upc.length, t.mode 15)) =
      some (0x85#8, 50, .out1) := by decide

theorem test_ds1302_write_date :
    after (exec (.ds1302WriteDate 0x59#8) (rtcAt [] 0x00#8 .nothing))
      (fun t => (t.rtc.sr, t.rtc.upc.length, t.mode 15)) =
      some (0x86#8, 49, .out1) := by decide

theorem test_ds1302_read_date :
    after (exec .ds1302ReadDate (rtcAt [] 0x00#8 .byte)) (fun t => (t.rtc.sr, t.rtc.upc.length, t.mode 15)) =
      some (0x87#8, 50, .out1) := by decide

theorem test_ds1302_write_month :
    after (exec (.ds1302WriteMonth 0x59#8) (rtcAt [] 0x00#8 .nothing))
      (fun t => (t.rtc.sr, t.rtc.upc.length, t.mode 15)) =
      some (0x88#8, 49, .out1) := by decide

theorem test_ds1302_read_month :
    after (exec .ds1302ReadMonth (rtcAt [] 0x00#8 .byte)) (fun t => (t.rtc.sr, t.rtc.upc.length, t.mode 15)) =
      some (0x89#8, 50, .out1) := by decide

theorem test_ds1302_write_wday :
    after (exec (.ds1302WriteWday 0x59#8) (rtcAt [] 0x00#8 .nothing))
      (fun t => (t.rtc.sr, t.rtc.upc.length, t.mode 15)) =
      some (0x8A#8, 49, .out1) := by decide

theorem test_ds1302_read_wday :
    after (exec .ds1302ReadWday (rtcAt [] 0x00#8 .byte)) (fun t => (t.rtc.sr, t.rtc.upc.length, t.mode 15)) =
      some (0x8B#8, 50, .out1) := by decide

theorem test_ds1302_write_year :
    after (exec (.ds1302WriteYear 0x59#8) (rtcAt [] 0x00#8 .nothing))
      (fun t => (t.rtc.sr, t.rtc.upc.length, t.mode 15)) =
      some (0x8C#8, 49, .out1) := by decide

theorem test_ds1302_read_year :
    after (exec .ds1302ReadYear (rtcAt [] 0x00#8 .byte)) (fun t => (t.rtc.sr, t.rtc.upc.length, t.mode 15)) =
      some (0x8D#8, 50, .out1) := by decide

theorem test_ds1302_write_wp :
    after (exec (.ds1302WriteWp 0x59#8) (rtcAt [] 0x00#8 .nothing))
      (fun t => (t.rtc.sr, t.rtc.upc.length, t.mode 15)) =
      some (0x8E#8, 49, .out1) := by decide

theorem test_ds1302_read_wp :
    after (exec .ds1302ReadWp (rtcAt [] 0x00#8 .byte)) (fun t => (t.rtc.sr, t.rtc.upc.length, t.mode 15)) =
      some (0x8F#8, 50, .out1) := by decide

theorem test_ds1302_write_ram :
    after (exec (.ds1302WriteRam 5 0xA7#8) (rtcAt [] 0x00#8 .nothing)) (fun t => (t.rtc.sr, t.rtc.upc.length)) =
      some (0xCA#8, 49) := by decide

theorem test_ds1302_read_ram :
    after (exec (.ds1302ReadRam 30) (rtcAt [] 0x00#8 .byte)) (fun t => (t.rtc.sr, t.rtc.upc.length)) =
      some (0xFD#8, 50) := by decide

/-! ### The rest of the machine -/

/-- Vector F1. -/
theorem test_step_bad_opcode :
    records (step (asks 0x42#8 [])) = some [.issue ⟨0x42#8, []⟩, .refused .badOpcode] := by decide

/-- Vector F4. -/
theorem test_step_unbound :
    records (step { State.reset with hist := [], pending := [⟨0x11#8, []⟩] }) =
      some [.issue ⟨0x11#8, []⟩, .refused .unbound] := by decide

/-- Vector F10: an RTC operation is admitted while a query runs. -/
theorem test_step_other_engine :
    after (step { dhtAt .readEnd [] with pending := [⟨0x17#8, []⟩], turns := [.host] })
      (fun t => t.rtc.busy) = some true := by decide

/-- R260. -/
theorem test_step_reset :
    after (step { bothBusy with turns := [.reset] })
      (fun t => (t.dht.busy, t.rtc.busy, t.rtc.lines)) = some (false, false, none) := by decide

theorem test_fetch_word_host :
    records (step (State.reset.withFetchWord 8 0b00000101)) =
      some [.reset, .issue ⟨0x05#8, []⟩, .done .dht (.flag false)] := by decide

theorem test_fetch_word_wire :
    records (step (State.reset.withFetchWord 8 0b10001101)) = some [.reset, .port .rtc (.drive 2 true)] := by decide

/-- Vector X1. -/
theorem test_shift_out_order :
    (shiftOutEvents 13 14 0x8E#8).filterMap (fun e => match e with | .drive 14 v => some v | _ => none) =
      [false, true, true, true, false, false, false, true] := by decide

/-- Vector X6. -/
theorem test_shift_in_order :
    sampledByte (fun i => [true, false, true, true, false, true, false, false][i]?.getD false) = 0x2D#8 := by decide

/-- R126. -/
theorem test_bit_sampled :
    after (.next (dhtMicroStep (dhtAt (.bitSample 7) [true]))) (fun t => (t.dht.frame, t.dht.bitcnt, t.dht.upc)) =
      some (0x80#40, 8, .bitHigh 8 0) := by decide

/-- Vectors K4 and K5: the first bit sampled is the most significant. -/
theorem test_pack_order : (pack 0x80#40, pack 0x01#40) = (⟨1, 0, 0, 0, 0⟩, ⟨128, 0, 0, 0, 0⟩) := by decide

/-- Vectors S10 and S5. -/
theorem test_checksum :
    checksumOk ⟨0xFF, 0xFF, 0x02, 0x00, 0x00⟩ = true ∧ checksumOk ⟨0x01, 0x90, 0x80, 0xC8, 0x59⟩ = false := by decide

/-- Vector L5, in thousandths. -/
theorem test_dht11 : decode11 ⟨0x10, 0xFF, 0x00, 0x63, 0⟩ = (18550, 990) := by decide

/-- Vector H9, in thousandths. -/
theorem test_dht22 : decode22 ⟨0x01, 0x90, 0xFF, 0x38, 0⟩ = (40000, -3256800) := by decide

/-- Vectors U8 and U10. -/
theorem test_unit_exact : applyUnit .fahrenheit 25010 = 77018 ∧ applyUnit .fahrenheit (-3276700) = -5866060 := by decide

/-- Vectors B1, B3, B4. -/
theorem test_bcd : dec2bcd 59 = 0x59#8 ∧ bcd2dec 0x9F#8 = 105 ∧ bcd2dec 0xFF#8 = 165 := by decide

/-- Vector B6. -/
theorem test_clamp : clamp 1 12 0 = 1 ∧ clamp 1 12 13 = 12 ∧ clamp 1 12 7 = 7 := by decide

/-- Vector Q7: a bound of 0 is treated as 1. -/
theorem test_timeout_bound_zero :
    records (.next (dhtMicroStep { dhtAt (.presenceLow 0) [false] with pollBound := some 0 })) =
      some [.port .dht (.sample 0 false), .done .dht (.reading ⟨none, none, false, true, .timeout⟩)] := by decide

/-- R230. -/
theorem test_status_codes :
    [Status.ok, .noResponse, .checksumMismatch, .timeout].map Status.code = [0, 1, 2, 3] := by decide

/-! ### Witnesses: for each statement with hypotheses, a state and operands that meet them -/

/-- `bothBusy` has the invariant. -/
theorem bothBusy_inv : bothBusy.Inv where
  modesOk := ⟨.nil, by decide⟩
  pullsOk := ⟨.nil, by decide⟩
  binding := .inr ⟨13, 14, 15, rfl, rfl, rfl, by decide⟩
  rtcBusy := by decide
  rtcIdle := by decide
  commands := by decide
  relock := by decide
  shcntOk := by decide
  bitcntOk := by decide
  results := by decide
  flags := by decide
  label := fun _ => ⟨rfl, rfl, rfl, by decide⟩

theorem witness_decodeOfEncode :
    WellFormed (Pin := PinId) (.rtcWrram 30 255) ∧ WellFormed (Pin := PinId) (.ds1302ReadRam 30) ∧
    WellFormed (Pin := PinId) (.rtcBind 13 14 15) ∧ WellFormed (Pin := PinId) (.dhtQuery 0 1 1 1) := by decide

theorem witness_encodeOfDecode : decode (Pin := PinId) (.wireRead 0xFD#8) = .ok (.ds1302ReadRam 30) ∧
    decode (Pin := PinId) (.host ⟨0x02#8, [.num 7]⟩) = .ok (.dhtUnit 7) := by decide

theorem witness_reservedOpcodesRefused : (asks 0x00#8 []).pending = [⟨0x00#8, []⟩] ∧
    ∀ n ∈ [0x00, 0x07, 0x0F, 0x18, 0x20, 0x28, 0x2F, 0x33, 0x3F, 0x42, 0xFF],
      (n = 0x00 ∨ (0x07 ≤ n ∧ n ≤ 0x0F) ∨ (0x18 ≤ n ∧ n ≤ 0x20) ∨ (0x28 ≤ n ∧ n ≤ 0x2F) ∨ (0x33 ≤ n ∧ n ≤ 0x3F) ∨
        (0x42 ≤ n ∧ n ≤ 0xFF)) := by decide

/-- One operand too few, one too many, and a number where a pin belongs, at the last row of R72, at an operation without
operands and at the first row. -/
theorem witness_wrongOperandsRefused : (asks 0x41#8 [.num 30]).pending = [⟨0x41#8, [.num 30]⟩] ∧
    (0x41, [.num, .num]) ∈ operandShapes ∧ [(.num 30 : Operand PinId)].map Operand.kind ≠ [.num, .num] ∧
    (0x03, []) ∈ operandShapes ∧ [(.num 0 : Operand PinId)].map Operand.kind ≠ [] ∧
    (0x01, [.pin, .num, .num, .num]) ∈ operandShapes ∧
    [(.num 0 : Operand PinId), .num 0, .num 0, .num 0].map Operand.kind ≠ [.pin, .num, .num, .num] := by decide

theorem witness_wireCommandMap_inside : ([0x80#8, 0x8E#8, 0xC0#8, 0xFC#8].all fun c =>
      (decodeWireWrite (Pin := PinId) c 0x00#8).toBool && !(decodeWireRead (Pin := PinId) c).toBool) ∧
    [0x81#8, 0x8F#8, 0xC1#8, 0xFD#8].all fun c =>
      !(decodeWireWrite (Pin := PinId) c 0x00#8).toBool && (decodeWireRead (Pin := PinId) c).toBool := by decide

theorem witness_wireCommandMap_outside : [0x7F#8, 0x90#8, 0xBF#8, 0xFE#8, 0xFF#8].all fun c =>
    !(decodeWireWrite (Pin := PinId) c 0x00#8).toBool && !(decodeWireRead (Pin := PinId) c).toBool := by decide

theorem witness_stepRunsHostRequest :
    (asks 0x02#8 [.num 1]).mover = .host ∧ (asks 0x02#8 [.num 1]).pending = [⟨0x02#8, [.num 1]⟩] ∧
    decode (Pin := PinId) (.host ⟨0x02#8, [.num 1]⟩) = .ok (.dhtUnit 1) := by decide

/-- The RTC engine before a write of the byte it read, with bit 7 set. -/
def writing : State := rtcAt [.txnWrite 0x80#8 (.rawOr 0x80#8), lastPrim] 0x15#8 .nothing

theorem witness_stepRunsWireCommand_write : writing.mover = .rtc ∧ writing.rtc.busy = true ∧
    writing.rtc.upc = [.txnWrite 0x80#8 (.rawOr 0x80#8), lastPrim] ∧
    decode (Pin := PinId) (.wireWrite 0x80#8 ((ByteSource.rawOr 0x80#8).value writing.rtc.raw)) =
      .ok (.ds1302WriteSec 0x95#8) := by decide

/-- The RTC engine before the read of `rtc.getyear`. -/
def reading : State := rtcAt [.txnRead 0x8D#8] 0x00#8 (.field .year)

theorem witness_stepRunsWireCommand_read : reading.mover = .rtc ∧ reading.rtc.busy = true ∧
    reading.rtc.upc = [.txnRead 0x8D#8] ∧ decode (Pin := PinId) (.wireRead 0x8D#8) = .ok .ds1302ReadYear := by decide

theorem witness_stepMovesOneAgent : (bothBusy.mover = .dht ∧ bothBusy.dht.busy = true) ∧
    (reading.mover = .rtc ∧ reading.rtc.busy = true) ∧
    ({ idle with turns := [.dht] }.mover = .dht ∧ { idle with turns := [.dht] }.dht.busy = false) ∧
    ({ idle with turns := [.rtc] }.mover = .rtc ∧ { idle with turns := [.rtc] }.rtc.busy = false) ∧
    (idle.mover = .host ∧ idle.pending = []) := by decide

theorem witness_resetLeavesResetValues : { bothBusy with turns := [.reset] }.mover = .reset := by decide

theorem witness_stepKeepsInvariant : bothBusy.Inv ∧ ∃ t, step bothBusy = .next t := ⟨bothBusy_inv, _, rfl⟩

theorem witness_stepAlwaysNext : bothBusy.Inv := bothBusy_inv

theorem witness_stepNeverReadsHistory : ∃ t, step bothBusy = .next t := ⟨_, rfl⟩

/-- The DHT engine before its last event. -/
def lastEmit : State := dhtAt (.emit .timeout none) []

theorem witness_noCancellation_hosts : { bothBusy with turns := [.host] }.mover = .host ∧ bothBusy.dht.busy = true ∧
    bothBusy.rtc.busy = true ∧ ∃ t, step { bothBusy with turns := [.host] } = .next t := ⟨rfl, rfl, rfl, _, rfl⟩

theorem witness_noCancellation_engines : { bothBusy with turns := [.rtc] }.mover = .rtc ∧
    { bothBusy with turns := [.dht] }.mover = .dht ∧ (∃ t, step { bothBusy with turns := [.rtc] } = .next t) ∧
    ∃ t, step { bothBusy with turns := [.dht] } = .next t := ⟨rfl, rfl, ⟨_, rfl⟩, _, rfl⟩

theorem witness_noCancellation_ends : (∃ t, step lastEmit = .next t ∧ lastEmit.dht.busy = true ∧ t.dht.busy = false) ∧
    ∃ t, step { bothBusy with turns := [.rtc] } = .next t ∧ bothBusy.rtc.busy = true ∧ t.rtc.busy = false :=
  ⟨⟨_, rfl, rfl, rfl⟩, _, rfl, rfl, rfl⟩

theorem witness_enginesAreIndependent : ∃ t, rtcMicroStep exec bothBusy = .next t := ⟨_, rfl⟩

theorem witness_microStepIsOneEvent : bothBusy.dht.busy = true ∧ bothBusy.Inv ∧ bothBusy.rtc.busy = true ∧
    ∃ t, rtcMicroStep exec bothBusy = .next t := ⟨rfl, bothBusy_inv, rfl, _, rfl⟩

theorem witness_onlyQueryWritesFlags : (∀ p v l d, (.dhtRdcs : Instr) ≠ .dhtQuery p v l d) ∧
    (∀ u, (.dhtRdcs : Instr) ≠ .dhtUnit u) ∧ (∃ t, exec .dhtRdcs idle = .next t) ∧
    (∃ t, exec (.dhtQuery 5 1 1 1) idle = .next t) ∧ ∃ t, stepRtc exec bothBusy = .next t :=
  ⟨fun _ _ _ _ h => (nomatch h), fun _ h => (nomatch h), ⟨_, rfl⟩, ⟨_, rfl⟩, _, rfl⟩

theorem witness_hostProgramsRelock : isHostOp (.rtcSetsec 5) = true ∧ idle.rtc.busy = false ∧ idle.rtc.upc = [] ∧
    ∃ t, exec (.rtcSetsec 5) idle = .next t := ⟨rfl, rfl, rfl, _, rfl⟩

theorem witness_refusalsByTheTable_reasons : isHostOp (.rtcWrram 31 256) = true ∧
    refusalOf (.rtcWrram 31 256) idle = some .operand ∧ refusalOf (.rtcWrram 31 255) idle = some .ramIndex ∧
    refusalOf (.rtcWrram 30 255) State.reset = some .unbound ∧ refusalOf (.rtcBind 1 2 1) idle = some .pinDistinct ∧
    refusalOf (.dhtQuery 15 0 0 0) idle = some .pinShared ∧ refusalOf .dhtRdh bothBusy = some .busy ∧
    refusalOf .rtcPause bothBusy = some .busy ∧ refusalOf (.rtcWrram 30 255) idle = none := by decide

theorem witness_refusalsByTheTable_mark : { idle with hist := [.refused .busy] }.refusalMarked = true ∧
    ∃ t, step { idle with hist := [.refused .busy] } = .next t := ⟨rfl, _, rfl⟩

theorem witness_issueFrame : isHostOp (.rtcBind 1 2 3) = true ∧ isDhtOp (.rtcBind 1 2 3) = false ∧
    isDhtOp .dhtRdh = true ∧ (∃ t, exec (.rtcBind 1 2 3) idle = .next t) ∧ ∃ t, exec .dhtRdh idle = .next t :=
  ⟨rfl, rfl, rfl, ⟨_, rfl⟩, _, rfl⟩

theorem witness_readUnset_reads : idle.dht.busy = false ∧ idle.dht.hum = none ∧ idle.dht.temp = none := by decide

theorem witness_readUnset_first : ∃ t, step (asks 0x04#8 []) = .next t ∧ (asks 0x04#8 []).faultMarked = false ∧
    t.faultMarked = true := ⟨_, rfl, rfl, rfl⟩

theorem witness_readUnset_stays : { idle with hist := [.faulted .readUnset] }.faultMarked = true ∧
    ∃ t, step { idle with hist := [.faulted .readUnset] } = .next t := ⟨rfl, _, rfl⟩

/-- Both result registers hold values. -/
def published : State := { idle with dht := { DhtEngine.reset 0 with hum := some 50000, temp := some 25000 } }

theorem witness_resultReadsReturn : bothBusy.dht.busy = true ∧ published.dht.busy = false ∧
    published.dht.hum = some 50000 ∧ published.dht.temp = some 25000 ∧ idle.dht.hum = none ∧ idle.dht.temp = none := by
  decide

theorem witness_unitIsSet : 1 < 2 ∧ bothBusy.dht.busy = true ∧ idle.dht.busy = false ∧ 2 ≤ 2 := by decide

theorem witness_queryStarts : idle.dht.busy = false ∧ idle.rtc.clkPin ≠ some 3 ∧ idle.rtc.dioPin ≠ some 3 ∧
    idle.rtc.cePin ≠ some 3 ∧ 1 < 2 ∧ 0 < 2 := by decide

theorem idle_dhtAlone : idle.dhtAlone := ⟨rfl, rfl, rfl⟩

theorem idle_rtcAlone : idle.rtcAlone 13 14 15 := ⟨⟨rfl, rfl, by decide⟩, rfl, rfl⟩

/-- Both engines idle, no pull-up, and the response sample answers 1 (vector Q3). -/
def silent : State := { idle with oracle := ⟨[true], [0#32], 0⟩ }

theorem witness_queryWithoutResponse : silent.dhtAlone ∧ silent.rtc.owns 3 = false ∧
    silent.oracle.dropClock.level 0 = true := ⟨⟨rfl, rfl, rfl⟩, rfl, rfl⟩

/-- The frame 0x32, 0x00, 0x19, 0x00, 0x4B (vector Q1), first bit sampled in bit 0. -/
def frameQ1 : BitVec 40 := 0xD2#40 <<< 32 ||| 0x98#40 <<< 16 ||| 0x4C#40

theorem test_frameQ1 : pack frameQ1 = ⟨0x32, 0x00, 0x19, 0x00, 0x4B⟩ := by decide

/-- The first presence wait sees two samples of its level, as in vector Q9, the others none. -/
def waitsQ9 (j : Nat) : Nat := if j = 0 then 2 else 0

/-- The sensor of vector Q9 answers; a bound of 3 samples is given. -/
def answering : State :=
  { idle with oracle := ⟨frameAnswers frameQ1 waitsQ9 ++ [true], [1000#32, 5200#32], 0⟩, pollBound := some 3 }

theorem witness_queryOfFullFrame : answering.dhtAlone ∧ answering.rtc.owns 3 = false ∧
    answering.oracle.levels = frameAnswers frameQ1 waitsQ9 ++ [true] ∧ answering.pollBound = some 3 ∧
    ∀ j, j < 82 → waitsQ9 j = 0 ∨ waitsQ9 j < 3 :=
  ⟨⟨rfl, rfl, rfl⟩, rfl, rfl, rfl, by decide⟩

/-- The four waits of WaitEnds, WaitTimesOut and WaitHangs. -/
theorem witness_waitLabels : WaitAt .presenceLow false (.presenceHigh 0) ∧ WaitAt .presenceHigh true (.bitHigh 0 0) ∧
    WaitAt (.bitHigh 39) true (.bitLow 39 0) ∧ WaitAt (.bitLow 39) false (.bitDelay 39) :=
  ⟨.inl ⟨rfl, rfl, rfl⟩, .inr (.inl ⟨rfl, rfl, rfl⟩), .inr (.inr (.inl ⟨39, rfl, rfl, rfl⟩)),
    .inr (.inr (.inr ⟨39, rfl, rfl, rfl⟩))⟩

/-- The wait of a bit's second half, before the answers 0, 0, 1. -/
def waiting : State := dhtAt (.bitLow 39 0) [false, false, true]

theorem witness_waitEnds : WaitAt (.bitLow 39) false (.bitDelay 39) ∧ waiting.dht.busy = true ∧
    waiting.unscheduled ∧ waiting.dht.upc = .bitLow 39 0 ∧ (∀ j, j < 2 → waiting.coming j = false) ∧
    waiting.coming 2 = !false ∧ waiting.pollBound = none :=
  ⟨.inr (.inr (.inr ⟨39, rfl, rfl, rfl⟩)), rfl, rfl, rfl, by decide, rfl, rfl⟩

theorem witness_waitTimesOut : WaitAt (.bitLow 39) false (.bitDelay 39) ∧ waiting.dht.busy = true ∧
    waiting.unscheduled ∧ waiting.dht.upc = .bitLow 39 0 ∧ { waiting with pollBound := some 2 }.pollBound = some 2 ∧
    ∀ j, j < max 2 1 → { waiting with pollBound := some 2 }.coming j = false :=
  ⟨.inr (.inr (.inr ⟨39, rfl, rfl, rfl⟩)), rfl, rfl, rfl, rfl, by decide⟩

theorem witness_waitHangs : WaitAt (.bitLow 39) false (.bitDelay 39) ∧ waiting.dht.busy = true ∧
    waiting.unscheduled ∧ waiting.dht.upc = .bitLow 39 0 ∧ waiting.pollBound = none ∧
    ∀ j, j < 2 → waiting.coming j = false :=
  ⟨.inr (.inr (.inr ⟨39, rfl, rfl, rfl⟩)), rfl, rfl, rfl, rfl, by decide⟩

/-- FrameByteBits and FrameBitWritten at the last byte and bit. -/
theorem witness_frameBounds : (4 < 5 ∧ 7 < 8) ∧ 39 < 40 := by decide

/-- Dht11DecodeExact and Dht22DecodeExact: the largest byte, and the two sides of the sign bit. -/
theorem witness_decodeBounds : 255 < 256 ∧ 127 < 128 ∧ 128 ≤ 128 := by decide

theorem witness_unitConversionExact : (DhtEngine.reset 0).unit = .celsius ∧
    { DhtEngine.reset 0 with unit := .fahrenheit }.unit = .fahrenheit := by decide

theorem witness_bindDrivesIdleLevels : idle.dhtAlone ∧ (2 : PinId) ≠ 3 ∧ (2 : PinId) ≠ 4 ∧ (3 : PinId) ≠ 4 :=
  ⟨idle_dhtAlone, by decide⟩

/-- WireReadsComplete and WireWritesComplete, with the last RAM index. -/
theorem witness_wireCommands : (rtcAt [] 0x00#8 .byte).rtcRunning 13 14 15 ∧ 30 ≤ 30 :=
  ⟨⟨rfl, rfl, by decide, by decide, by decide, rfl, rfl⟩, by decide⟩

theorem witness_wireCommandsNeedLines : isHostOp .ds1302ReadSec = false ∧ WellFormed (Pin := PinId) .ds1302ReadSec ∧
    State.reset.rtc.lines = none ∧ isHostOp (.ds1302ReadRam 31) = false ∧
    ¬ WellFormed (Pin := PinId) (.ds1302ReadRam 31) := by decide

/-- GettersReturnField, SettersStoreField, SetDateTimeWrites, StartAndPauseToggleHalt and RamIsRaw, at the largest
operands. -/
theorem witness_rtcOperations : idle.rtcAlone 13 14 15 ∧ 2 ^ 32 - 1 < 2 ^ 32 ∧ 30 ≤ 30 ∧ 255 ≤ 255 :=
  ⟨idle_rtcAlone, by decide⟩

/-- BcdEncode, ClampRule and FieldRangesAndRoundTrip at the ends of the ranges. -/
theorem witness_conversions : 99 ≤ 99 ∧ (1 ≤ 12 ∧ 1 ≤ 1 ∧ 1 ≤ 12 ∧ 12 ≤ 12) ∧ 59 ≤ 59 ∧ 23 ≤ 23 ∧ (1 ≤ 31 ∧ 31 ≤ 31) ∧
    (1 ≤ 7 ∧ 7 ≤ 7) ∧ 2000 ≤ 2099 ∧ 2099 ≤ 2099 := by decide

/-- A reference DS1302 that is unlocked and holds 0x24 in its year register (20_memory.md R62). -/
def peer : Ds1302 := ⟨[(0x8C, 0x24#8), (0x8E, 0x00#8)], false, [], 0⟩

theorem witness_peerHearsWrites : (13 : PinId) ≠ 14 ∧ (13 : PinId) ≠ 15 ∧ (14 : PinId) ≠ 15 ∧
    (0x8E#8).getLsbD 0 = false ∧ (0x80#8).getLsbD 0 = false ∧ (peer.dev.read 0x8E).getLsbD 7 = false ∧
    ((peer.dev.write 0x8E 0x80#8).read 0x8E).getLsbD 7 = true := by decide

theorem witness_peerAnswersReads : (13 : PinId) ≠ 14 ∧ (13 : PinId) ≠ 15 ∧ (14 : PinId) ≠ 15 ∧
    (0x8D#8).getLsbD 0 = true ∧ ∀ i, i < 8 → (0x24#8).getLsbD i =
      (((readEvents 13 14 15 0x8D#8 (0x24#8).getLsbD).take (26 + 3 * i)).foldl
      (Ds1302.observe 13 14 15) peer).answer := by decide

theorem witness_sensorSendsFrame : pack frameQ1 = ⟨(0x32#8).toNat, (0x00#8).toNat, (0x19#8).toNat, (0x00#8).toNat,
    (0x4B#8).toNat⟩ := by decide

/-- The pins of a platform that names them and gives them no numbers. -/
inductive BoardPin where
  | clk
  | dio
  | ce
  | sensor
  deriving DecidableEq, Repr

/-- A numbering of the platform's pins. -/
def BoardPin.number (p : BoardPin) : PinId :=
  match p with
  | .clk => 13
  | .dio => 14
  | .ce => 15
  | .sensor => 3

/-- Both engines run on the platform's own pins, a pin is driven and one is pulled up, and the host asks for a query and
a binding. -/
def board : State BoardPin where
  dht := { DhtEngine.reset .sensor with busy := true, srsp := true, upc := .bitHigh 0 0 }
  rtc := { (RtcEngine.reset : RtcEngine BoardPin) with
    clkPin := some .clk, dioPin := some .dio, cePin := some .ce, busy := true, upc := [.prim (.drive .ce false)] }
  modes := [(.ce, .out1), (.clk, .out0)]
  pulls := [(.sensor, .up)]
  hist := [.issue ⟨0x10#8, [.pin .clk, .pin .dio, .pin .ce]⟩, .port .dht (.release .sensor true)]
  oracle := ⟨[true, false], [], 0⟩
  pending := [⟨0x01#8, [.pin .sensor, .num 0, .num 1, .num 0]⟩, ⟨0x10#8, [.pin .ce, .pin .dio, .pin .clk]⟩]
  turns := [.rtc]
  pollBound := none

/-- The same state with each pin's number; the drivers are listed in another order. -/
def boardNumbered : State where
  dht := { DhtEngine.reset 3 with busy := true, srsp := true, upc := .bitHigh 0 0 }
  rtc := { (RtcEngine.reset : RtcEngine PinId) with
    clkPin := some 13, dioPin := some 14, cePin := some 15, busy := true, upc := [.prim (.drive 15 false)] }
  modes := [(13, .out0), (15, .out1)]
  pulls := [(3, .up)]
  hist := [.issue ⟨0x10#8, [.pin 13, .pin 14, .pin 15]⟩, .port .dht (.release 3 true)]
  oracle := ⟨[true, false], [], 0⟩
  pending := [⟨0x01#8, [.pin 3, .num 0, .num 1, .num 0]⟩, ⟨0x10#8, [.pin 15, .pin 14, .pin 13]⟩]
  turns := [.rtc]
  pollBound := none

theorem witness_pinsAreOnlyNames : Function.Injective BoardPin.number ∧
    board.PinsRenamed BoardPin.number boardNumbered where
  left := by intro p q; cases p <;> cases q <;> decide
  right := {
    dht := rfl, rtc := rfl, mode := by intro p; cases p <;> rfl, pull := by intro p; cases p <;> rfl, hist := rfl,
    oracle := rfl, pending := rfl, turns := rfl, pollBound := rfl }

/-- The machine steps over the platform's own pins: the transaction's last event, on the pin named `ce`. -/
theorem test_step_on_named_pins : (match stepAt board with
    | .next t => (t.mode .ce, t.rtc.busy, t.mode .clk)
    | _ => (.input, true, .input)) = (.out0, false, .out0) := by decide

end Sys2Proof.Tests
end

section
/-! PROOF. The machine over any type of pins (00_scope.md R7): every operation of the model, done on two states of which
one is the other with its pins renamed, gives two such states again. Equality of pins is used by the pin tables (R31) and
by the checks of `rtc.bind` (R161) and of the query's pin (R121) only, and there an injective renaming keeps it. -/

namespace Sys2Proof.Machine

section
variable {P Q : Type} (f : P → Q)

/-- An instruction with its pins renamed. -/
def Instr.renamePins (i : Instr P) : Instr Q :=
  match i with
  | .dhtQuery pin var pull diag => .dhtQuery (f pin) var pull diag
  | .dhtUnit u => .dhtUnit u
  | .dhtRdh => .dhtRdh
  | .dhtRdt => .dhtRdt
  | .dhtRdcs => .dhtRdcs
  | .dhtRdsr => .dhtRdsr
  | .rtcBind clk dio ce => .rtcBind (f clk) (f dio) (f ce)
  | .rtcGetsec => .rtcGetsec
  | .rtcGetmin => .rtcGetmin
  | .rtcGethour => .rtcGethour
  | .rtcGetday => .rtcGetday
  | .rtcGetmonth => .rtcGetmonth
  | .rtcGetwday => .rtcGetwday
  | .rtcGetyear => .rtcGetyear
  | .rtcSetsec v => .rtcSetsec v
  | .rtcSetmin v => .rtcSetmin v
  | .rtcSethour v => .rtcSethour v
  | .rtcSetday v => .rtcSetday v
  | .rtcSetmonth v => .rtcSetmonth v
  | .rtcSetwday v => .rtcSetwday v
  | .rtcSetyear v => .rtcSetyear v
  | .rtcSetdt y mo dd wd hh mi ss => .rtcSetdt y mo dd wd hh mi ss
  | .rtcStart => .rtcStart
  | .rtcPause => .rtcPause
  | .rtcRdram idx => .rtcRdram idx
  | .rtcWrram idx d => .rtcWrram idx d
  | .ds1302WriteSec d => .ds1302WriteSec d
  | .ds1302ReadSec => .ds1302ReadSec
  | .ds1302WriteMin d => .ds1302WriteMin d
  | .ds1302ReadMin => .ds1302ReadMin
  | .ds1302WriteHour d => .ds1302WriteHour d
  | .ds1302ReadHour => .ds1302ReadHour
  | .ds1302WriteDate d => .ds1302WriteDate d
  | .ds1302ReadDate => .ds1302ReadDate
  | .ds1302WriteMonth d => .ds1302WriteMonth d
  | .ds1302ReadMonth => .ds1302ReadMonth
  | .ds1302WriteWday d => .ds1302WriteWday d
  | .ds1302ReadWday => .ds1302ReadWday
  | .ds1302WriteYear d => .ds1302WriteYear d
  | .ds1302ReadYear => .ds1302ReadYear
  | .ds1302WriteWp d => .ds1302WriteWp d
  | .ds1302ReadWp => .ds1302ReadWp
  | .ds1302WriteRam idx d => .ds1302WriteRam idx d
  | .ds1302ReadRam idx => .ds1302ReadRam idx

/-! ### Decoding names no pin (30_encoding.md R70 to R74) -/

theorem renamePins_kind (x : Operand P) : (Operand.renamePins f x).kind = x.kind := by cases x <;> rfl

theorem kinds_renamePins (args : List (Operand P)) :
    (args.map (Operand.renamePins f)).map Operand.kind = args.map Operand.kind := by
  simp [Function.comp_def, renamePins_kind]

theorem instr_renamePins_of_some {o : HostOp} {args : List (Operand P)} {i : Instr P} (h : o.instr args = some i) :
    o.instr (args.map (Operand.renamePins f)) = some (Instr.renamePins f i) := by
  unfold HostOp.instr at h
  split at h <;> cases h <;> rfl

theorem instr_renamePins_of_none {o : HostOp} {args : List (Operand P)} (h : o.instr args = none) :
    o.instr (args.map (Operand.renamePins f)) = none := by
  rwa [← Option.not_isSome_iff_eq_none, instr_isSome, kinds_renamePins, ← instr_isSome, Option.not_isSome_iff_eq_none]

theorem decodeHost_renamePins (r : Request P) :
    decodeHost (Request.renamePins f r) = (decodeHost r).map (Instr.renamePins f) := by
  unfold decodeHost Request.renamePins
  cases HostOp.ofOpcode r.op with
  | none => rfl
  | some o =>
    cases h : o.instr r.args with
    | none => simp [h, instr_renamePins_of_none f h, Except.map]
    | some i => simp [h, instr_renamePins_of_some f h, Except.map]

theorem decodeWireWrite_renamePins (cmd dat : Byte) :
    decodeWireWrite cmd dat = (decodeWireWrite cmd dat).map (Instr.renamePins f) := by
  unfold decodeWireWrite
  simp only [apply_ite (Except.map (Instr.renamePins f))]
  cases ramIndexOf cmd <;> rfl

theorem decodeWireRead_renamePins (cmd : Byte) :
    decodeWireRead cmd = (decodeWireRead cmd).map (Instr.renamePins f) := by
  unfold decodeWireRead
  simp only [apply_ite (Except.map (Instr.renamePins f))]
  cases ramIndexOf cmd <;> rfl

/-! ### The RTC engine's lines and transactions (42_rtc_transactions.md R161, R165, R166) -/

theorem writeBody_renamePins (clk dio ce : P) (v : Byte) :
    writeBody (f clk) (f dio) (f ce) v = (writeBody clk dio ce v).map (RtcPrim.renamePins f) := rfl

theorem readBody_renamePins (clk dio ce : P) :
    readBody (f clk) (f dio) (f ce) = (readBody clk dio ce).map (RtcPrim.renamePins f) := rfl

theorem prims_renamePins (l : List (RtcPrim P)) :
    (l.map (RtcPrim.renamePins f)).map RtcMicro.prim = (l.map RtcMicro.prim).map (RtcMicro.renamePins f) := by
  simp [RtcMicro.renamePins]

theorem lines_renamePins (r : RtcEngine P) :
    (r.renamePins f).lines = r.lines.map fun l => (f l.1, f l.2.1, f l.2.2) := by
  obtain ⟨clk, dio, ce⟩ := r
  cases clk <;> cases dio <;> cases ce <;> rfl

theorem afterPulse_renamePins (a : AfterPulse) (r : RtcEngine P) :
    a.apply (r.renamePins f) = (a.apply r).renamePins f := by
  cases a <;> rfl

end

/-! ### Where pins are compared -/

section
variable {P Q : Type} [DecidableEq P] [DecidableEq Q] {f : P → Q} (hf : Function.Injective f)
include hf

theorem checkPinDistinct_renamePins (clk dio ce : P) :
    checkPinDistinct (f clk) (f dio) (f ce) = checkPinDistinct clk dio ce := by
  simp [checkPinDistinct, pinsDistinct, hf.ne_iff]

theorem owns_renamePins (r : RtcEngine P) (p : P) : (r.renamePins f).owns (f p) = r.owns p := by
  have map_beq (o : Option P) : (o.map f == some (f p)) = (o == some p) := by
    cases o <;> simp [hf.eq_iff, beq_eq_decide]
  simp [RtcEngine.owns, RtcEngine.renamePins, map_beq]

end

/-! ### The operations over the state -/

namespace State.PinsRenamed

variable {P Q : Type} [DecidableEq P] [DecidableEq Q] {f : P → Q} {s : State P} {t : State Q}

theorem setDht (h : s.PinsRenamed f t) {d : DhtEngine P} {d' : DhtEngine Q} (hd : d' = d.renamePins f) :
    (s.setDht d).PinsRenamed f (t.setDht d') := { h with dht := hd }

theorem setRtc (h : s.PinsRenamed f t) {r : RtcEngine P} {r' : RtcEngine Q} (hr : r' = r.renamePins f) :
    (s.setRtc r).PinsRenamed f (t.setRtc r') := { h with rtc := hr }

theorem setOracle (h : s.PinsRenamed f t) {o o' : Oracle} (ho : o' = o) :
    (s.setOracle o).PinsRenamed f (t.setOracle o') := { h with oracle := ho }

theorem setPending (h : s.PinsRenamed f t) (q : List (Request P)) :
    (s.setPending q).PinsRenamed f (t.setPending (q.map (Request.renamePins f))) := { h with pending := rfl }

theorem takeTurn (h : s.PinsRenamed f t) : s.takeTurn.PinsRenamed f t.takeTurn :=
  { h with turns := congrArg (List.drop 1) h.turns }

theorem log (h : s.PinsRenamed f t) {e : Entry P} {e' : Entry Q} (he : e' = Entry.renamePins f e) :
    (s.log e).PinsRenamed f (t.log e') := { h with hist := by simp [h.hist, he] }

theorem refuse (h : s.PinsRenamed f t) (r : OpRefusal) : (s.refuse r).PinsRenamed f (t.refuse r) := h.log rfl

theorem complete (h : s.PinsRenamed f t) (e : Engine) {r r' : Result} (hr : r' = r) :
    (s.complete e r).PinsRenamed f (t.complete e r') := h.log (hr ▸ rfl)

theorem nextLevel (h : s.PinsRenamed f t) : t.nextLevel = s.nextLevel := congrArg (·.level 0) h.oracle

theorem nextClock (h : s.PinsRenamed f t) : t.nextClock = s.nextClock := congrArg Oracle.clock h.oracle

theorem sample (h : s.PinsRenamed f t) (e : Engine) {p : P} {p' : Q} (hp : p' = f p) :
    (s.sample e p).PinsRenamed f (t.sample e p') :=
  (h.setOracle (by rw [h.oracle])).log (by rw [h.nextLevel, hp]; rfl)

theorem now (h : s.PinsRenamed f t) (e : Engine) : (s.now e).PinsRenamed f (t.now e) :=
  (h.setOracle (by rw [h.oracle])).log (by rw [h.nextClock]; rfl)

/-- The reset event clears both pin tables (70_reset_and_hazards.md R260). -/
theorem resetEvent (h : s.PinsRenamed f t) : s.resetEvent.PinsRenamed f t.resetEvent where
  dht := by simp [State.resetEvent, h.dht]; rfl
  rtc := rfl
  mode _ := rfl
  pull _ := rfl
  hist := by simp [State.resetEvent, h.hist, Entry.renamePins]
  oracle := h.oracle
  pending := h.pending
  turns := h.turns
  pollBound := h.pollBound

section
variable (hf : Function.Injective f)
include hf

/-- `Drive` writes the mode of the renamed pin and of no other pin's new name (R101). -/
theorem drive (h : s.PinsRenamed f t) (e : Engine) {p : P} {p' : Q} (hp : p' = f p) {v v' : Level} (hv : v' = v) :
    (s.drive e p v).PinsRenamed f (t.drive e p' v') :=
  { h with
    mode := fun q => by simp [drive_mode, h.mode, hp, hv, hf.eq_iff]
    hist := by simp [h.hist, hp, hv, Entry.renamePins, Event.renamePins] }

/-- `Release` writes the drivers of the renamed pin and of no other pin's new name (R102). -/
theorem release (h : s.PinsRenamed f t) (e : Engine) {p : P} {p' : Q} (hp : p' = f p) {up up' : Bool} (hu : up' = up) :
    (s.release e p up).PinsRenamed f (t.release e p' up') :=
  { h with
    mode := fun q => by simp [release_mode, h.mode, hp, hf.eq_iff]
    pull := fun q => by simp [release_pull, h.pull, hp, hu, hf.eq_iff]
    hist := by simp [h.hist, hp, hu, Entry.renamePins, Event.renamePins] }

end

/-! ### The DHT engine (41_dht_sampler.md R120 to R139) -/

theorem dhtGoto (h : s.PinsRenamed f t) (l : DhtLabel) : (s.dhtGoto l).PinsRenamed f (t.dhtGoto l) :=
  h.setDht (by rw [h.dht]; rfl)

theorem dhtReturn (h : s.PinsRenamed f t) (status : Status) :
    (s.dhtReturn status).PinsRenamed f (t.dhtReturn status) :=
  (h.setDht (by rw [h.dht]; rfl)).complete .dht (by rw [h.dht]; rfl)

theorem dhtFinish (h : s.PinsRenamed f t) (status : Status) (elapsed : Option Clock) :
    (s.dhtFinish status elapsed).PinsRenamed f (t.dhtFinish status elapsed) := by
  have hd : t.dht.qDiag = s.dht.qDiag := by rw [h.dht]; rfl
  unfold State.dhtFinish
  rw [hd]
  split
  · exact h.dhtGoto _
  · exact h.dhtReturn _

theorem dhtSample (h : s.PinsRenamed f t) :
    (s.sample .dht s.dht.qPin).PinsRenamed f (t.sample .dht t.dht.qPin) := h.sample .dht (by rw [h.dht]; rfl)

theorem dhtWait (h : s.PinsRenamed f t) (v : Level) (n : Nat) (again : Nat → DhtLabel) (next : DhtLabel) :
    (s.dhtWait v n again next).PinsRenamed f (t.dhtWait v n again next) := by
  unfold State.dhtWait
  rw [h.nextLevel, h.pollBound]
  dsimp only
  split
  · exact h.dhtSample.dhtGoto _
  · split
    · exact h.dhtSample.dhtFinish _ _
    · exact h.dhtSample.dhtGoto _

theorem dhtReadStart (h : s.PinsRenamed f t) : s.dhtReadStart.PinsRenamed f t.dhtReadStart :=
  (h.now .dht).setDht (by rw [h.dht, h.nextClock]; rfl)

theorem dhtSampleResponse (h : s.PinsRenamed f t) : s.dhtSampleResponse.PinsRenamed f t.dhtSampleResponse := by
  unfold State.dhtSampleResponse
  rw [h.nextLevel]
  dsimp only
  split
  · exact h.dhtSample.dhtFinish _ _
  · exact h.dhtSample.setDht (by rw [h.dht]; rfl)

theorem dhtSampleBit (h : s.PinsRenamed f t) (k : Nat) : (s.dhtSampleBit k).PinsRenamed f (t.dhtSampleBit k) :=
  h.dhtSample.setDht (by rw [h.dht, h.nextLevel]; rfl)

theorem dhtReadEnd (h : s.PinsRenamed f t) : s.dhtReadEnd.PinsRenamed f t.dhtReadEnd := by
  have hs : frameStatus (checksumOk (pack t.dht.frame)) = frameStatus (checksumOk (pack s.dht.frame)) := by
    rw [h.dht]; rfl
  have ht : t.nextClock - t.dht.t0 = s.nextClock - s.dht.t0 := by rw [h.dht, h.nextClock]; rfl
  unfold State.dhtReadEnd
  rw [hs, ht]
  exact ((h.now .dht).setDht (by rw [h.dht, h.nextClock]; rfl)).dhtFinish _ _

theorem dhtMicroStep (h : s.PinsRenamed f t) (hf : Function.Injective f) :
    (dhtMicroStep s).PinsRenamed f (dhtMicroStep t) := by
  have hu : t.dht.upc = s.dht.upc := by rw [h.dht]; rfl
  have hp : t.dht.qPin = f s.dht.qPin := by rw [h.dht]; rfl
  unfold Machine.dhtMicroStep
  rw [hu]
  cases s.dht.upc with
  | readStart => exact h.dhtReadStart
  | driveLow => exact (h.drive hf .dht hp rfl).dhtGoto _
  | holdLow => exact (h.log rfl).dhtGoto _
  | releaseLine => exact (h.release hf .dht hp (by rw [h.dht]; rfl)).dhtGoto _
  | holdRelease => exact (h.log rfl).dhtGoto _
  | sampleResponse => exact h.dhtSampleResponse
  | presenceLow n => exact h.dhtWait _ _ _ _
  | presenceHigh n => exact h.dhtWait _ _ _ _
  | bitHigh k n => exact h.dhtWait _ _ _ _
  | bitLow k n => exact h.dhtWait _ _ _ _
  | bitDelay k => exact (h.log rfl).dhtGoto _
  | bitSample k => exact h.dhtSampleBit k
  | readEnd => exact h.dhtReadEnd
  | emit status elapsed => exact (h.log (by rw [h.dht]; rfl)).dhtReturn _

/-! ### The RTC engine (42_rtc_transactions.md R161 to R166) -/

theorem rtcSettle (h : s.PinsRenamed f t) : s.rtcSettle.PinsRenamed f t.rtcSettle := by
  have hu : t.rtc.upc.isEmpty = s.rtc.upc.isEmpty := by rw [h.rtc]; exact List.isEmpty_map
  unfold State.rtcSettle
  rw [hu]
  split
  · exact (h.setRtc (by rw [h.rtc]; rfl)).complete .rtc (by rw [h.rtc]; rfl)
  · exact h

theorem setRtcUpc (h : s.PinsRenamed f t) (prog : List (RtcMicro P)) :
    (s.setRtcUpc prog).PinsRenamed f (t.setRtcUpc (prog.map (RtcMicro.renamePins f))) :=
  h.setRtc (by rw [h.rtc]; rfl)

theorem rtcPerform (h : s.PinsRenamed f t) (hf : Function.Injective f) (p : RtcPrim P) :
    (rtcPerform p s).PinsRenamed f (rtcPerform (RtcPrim.renamePins f p) t) := by
  cases p with
  | drive pin v => exact h.drive hf .rtc rfl rfl
  | driveBit dio i => exact h.drive hf .rtc rfl (by rw [h.rtc]; rfl)
  | clockLow clk n after =>
    exact (h.drive hf .rtc rfl rfl).setRtc (by rw [h.rtc]; exact afterPulse_renamePins f after { s.rtc with shcnt := n })
  | releaseDio dio => exact (h.release hf .rtc rfl rfl).setRtc (by rw [h.rtc]; rfl)
  | sampleBit dio i => exact (h.sample .rtc rfl).setRtc (by rw [h.rtc, h.nextLevel]; rfl)

theorem refuseTxn (h : s.PinsRenamed f t) (r : OpRefusal) : (s.refuseTxn r).PinsRenamed f (t.refuseTxn r) :=
  (h.setRtc (by rw [h.rtc]; rfl)).refuse r

/-! ### Admission (60_exceptions.md R236) -/

theorem admission (h : s.PinsRenamed f t) {r r' : Option OpRefusal} (hr : r' = r) {u : State P} {u' : State Q}
    (hu : u.PinsRenamed f u') : (s.admission r u).PinsRenamed f (t.admission r' u') := by
  subst hr
  cases r' with
  | none => exact hu
  | some r => exact h.refuse r

theorem checkDhtIdle (h : s.PinsRenamed f t) : t.checkDhtIdle = s.checkDhtIdle := by
  unfold State.checkDhtIdle; rw [h.dht]; rfl

theorem checkRtcIdle (h : s.PinsRenamed f t) : t.checkRtcIdle = s.checkRtcIdle := by
  unfold State.checkRtcIdle; rw [h.rtc]; rfl

theorem checkBound (h : s.PinsRenamed f t) : t.checkBound = s.checkBound := by
  simp [State.checkBound, h.rtc, lines_renamePins]

theorem checkPinShared (h : s.PinsRenamed f t) (hf : Function.Injective f) (p : P) :
    t.checkPinShared (f p) = s.checkPinShared p := by
  simp [State.checkPinShared, h.rtc, owns_renamePins hf]

theorem returnResult (h : s.PinsRenamed f t) {m m' : Option Milli} (hm : m' = m) :
    (s.returnResult m).PinsRenamed f (t.returnResult m') := by
  subst hm
  cases m' with
  | none => exact h.log rfl
  | some v => exact h.complete .dht rfl

theorem mover (h : s.PinsRenamed f t) : t.mover = s.mover := by
  unfold State.mover; rw [h.turns, h.dht, h.rtc]; rfl

end State.PinsRenamed

/-! ### Outcomes -/

/-- The outcome `o'` is `o` with every pin renamed: it stops for the same reason, or leads to the next state with every
pin renamed. -/
def OutcomeRenamed {P Q : Type} [DecidableEq P] [DecidableEq Q] (f : P → Q)
    (o : Host.Outcome (State P) Fault Refusal) (o' : Host.Outcome (State Q) Fault Refusal) : Prop :=
  match o with
  | .next t => ∃ t', o' = .next t' ∧ t.PinsRenamed f t'
  | .fault e => o' = .fault e
  | .refused r => o' = .refused r

section
variable {P Q : Type} [DecidableEq P] [DecidableEq Q] {f : P → Q} {s : State P} {t : State Q}

theorem State.PinsRenamed.next (h : s.PinsRenamed f t) : OutcomeRenamed f (.next s) (.next t) := ⟨t, rfl, h⟩

theorem rtcOperation_renamed (h : s.PinsRenamed f t) (operands : Option OpRefusal) {prog : List (RtcMicro P)}
    {prog' : List (RtcMicro Q)} (hp : prog' = prog.map (RtcMicro.renamePins f)) (ret : RtcReturn) :
    OutcomeRenamed f (rtcOperation operands prog ret s) (rtcOperation operands prog' ret t) :=
  (h.admission (by rw [h.checkBound, h.checkRtcIdle]) (h.setRtc (by rw [h.rtc, hp]; rfl))).next

variable (hf : Function.Injective f)
include hf

theorem wireTransaction_renamed (h : s.PinsRenamed f t) (operands : Option OpRefusal) (cmd : Byte)
    {body : P → P → P → List (RtcPrim P)} {body' : Q → Q → Q → List (RtcPrim Q)}
    (hb : ∀ clk dio ce, body' (f clk) (f dio) (f ce) = (body clk dio ce).map (RtcPrim.renamePins f)) :
    OutcomeRenamed f (wireTransaction operands cmd body s) (wireTransaction operands cmd body' t) := by
  unfold wireTransaction
  cases operands with
  | some r => exact (h.refuseTxn r).next
  | none =>
    rw [h.rtc, lines_renamePins]
    cases s.rtc.lines with
    | none => exact (h.refuseTxn .unbound).next
    | some l =>
      refine ((h.drive hf .rtc rfl rfl).setRtc ?_).next
      simp only [RtcEngine.renamePins, hb, prims_renamePins, List.map_append]

theorem wireWrite_renamed (h : s.PinsRenamed f t) (operands : Option OpRefusal) (cmd v : Byte) :
    OutcomeRenamed f (wireWrite operands cmd v s) (wireWrite operands cmd v t) :=
  wireTransaction_renamed hf h operands cmd fun clk dio ce => writeBody_renamePins f clk dio ce v

theorem wireRead_renamed (h : s.PinsRenamed f t) (operands : Option OpRefusal) (cmd : Byte) :
    OutcomeRenamed f (wireRead operands cmd s) (wireRead operands cmd t) :=
  wireTransaction_renamed hf h operands cmd (readBody_renamePins f)

theorem execDhtQuery_renamed (h : s.PinsRenamed f t) (pin : P) (var pull diag : Nat) :
    OutcomeRenamed f (execDhtQuery pin var pull diag s) (execDhtQuery (f pin) var pull diag t) :=
  (h.admission (by rw [h.checkPinShared hf, h.checkDhtIdle]) (h.setDht (by rw [h.dht]; rfl))).next

theorem execRtcBind_renamed (h : s.PinsRenamed f t) (clk dio ce : P) :
    OutcomeRenamed f (execRtcBind clk dio ce s) (execRtcBind (f clk) (f dio) (f ce) t) :=
  (h.admission (by rw [checkPinDistinct_renamePins hf, h.checkRtcIdle]) (h.setRtc (by rw [h.rtc]; rfl))).next

/-- Every instruction with its pins renamed does the same to the state with its pins renamed. -/
theorem execAt_renamed (h : s.PinsRenamed f t) (i : Instr P) :
    OutcomeRenamed f (execAt i s) (execAt (Instr.renamePins f i) t) := by
  cases i with
  | dhtQuery pin var pull diag => exact execDhtQuery_renamed hf h pin var pull diag
  | dhtUnit u =>
    exact (h.admission (by rw [h.checkDhtIdle]) ((h.setDht (by rw [h.dht]; rfl)).complete .dht rfl)).next
  | dhtRdh | dhtRdt => exact (h.admission h.checkDhtIdle (h.returnResult (by rw [h.dht]; rfl))).next
  | dhtRdcs | dhtRdsr => exact (h.admission h.checkDhtIdle (h.complete .dht (by rw [h.dht]; rfl))).next
  | rtcBind clk dio ce => exact execRtcBind_renamed hf h clk dio ce
  | rtcGetsec | rtcGetmin | rtcGethour | rtcGetday | rtcGetmonth | rtcGetwday | rtcGetyear =>
    exact rtcOperation_renamed h _ rfl _
  | rtcSetsec v | rtcSetmin v | rtcSethour v | rtcSetday v | rtcSetmonth v | rtcSetwday v | rtcSetyear v =>
    exact rtcOperation_renamed h _ rfl _
  | rtcSetdt y mo dd wd hh mi ss => exact rtcOperation_renamed h _ rfl _
  | rtcStart | rtcPause => exact rtcOperation_renamed h _ rfl _
  | rtcRdram idx | rtcWrram idx d => exact rtcOperation_renamed h _ rfl _
  | ds1302WriteSec d | ds1302WriteMin d | ds1302WriteHour d | ds1302WriteDate d | ds1302WriteMonth d
  | ds1302WriteWday d | ds1302WriteYear d | ds1302WriteWp d => exact wireWrite_renamed hf h none _ d
  | ds1302WriteRam idx d => exact wireWrite_renamed hf h (checkRamIndex idx) _ d
  | ds1302ReadSec | ds1302ReadMin | ds1302ReadHour | ds1302ReadDate | ds1302ReadMonth
  | ds1302ReadWday | ds1302ReadYear | ds1302ReadWp => exact wireRead_renamed hf h none _
  | ds1302ReadRam idx => exact wireRead_renamed hf h (checkRamIndex idx) _

/-! ### The movers (00_scope.md R13) -/

theorem stepHost_renamed (h : s.PinsRenamed f t) : OutcomeRenamed f (stepHost execAt s) (stepHost execAt t) := by
  unfold stepHost
  rw [h.pending]
  cases s.pending with
  | nil => exact h.next
  | cons r rest =>
    have hl := (h.setPending rest).log (e := .issue r) rfl
    simp only [List.map_cons, decodeHost_renamePins]
    cases decodeHost r with
    | ok i => exact execAt_renamed hf hl i
    | error e => exact (hl.refuse _).next

theorem stepDht_renamed (h : s.PinsRenamed f t) : OutcomeRenamed f (stepDht s) (stepDht t) := by
  have hb : t.dht.busy = s.dht.busy := by rw [h.dht]; rfl
  unfold stepDht
  rw [hb]
  split
  · exact (h.dhtMicroStep hf).next
  · exact h.next

theorem rtcFetch_renamed (h : s.PinsRenamed f t) (cmd : Byte) {found : Except DecodeError (Instr P)}
    {found' : Except DecodeError (Instr Q)} (hd : found' = found.map (Instr.renamePins f)) :
    OutcomeRenamed f (rtcFetch execAt cmd found s) (rtcFetch execAt cmd found' t) := by
  subst hd
  cases found with
  | ok i => exact execAt_renamed hf h i
  | error e => rfl

theorem rtcMicroStep_renamed (h : s.PinsRenamed f t) :
    OutcomeRenamed f (rtcMicroStep execAt s) (rtcMicroStep execAt t) := by
  have hu : t.rtc.upc = s.rtc.upc.map (RtcMicro.renamePins f) := by rw [h.rtc]; rfl
  have hr : t.rtc.raw = s.rtc.raw := by rw [h.rtc]; rfl
  unfold rtcMicroStep
  rw [hu, hr]
  cases s.rtc.upc with
  | nil => rfl
  | cons m rest =>
    cases m with
    | txnWrite cmd src => exact rtcFetch_renamed hf (h.setRtcUpc rest) cmd (decodeWireWrite_renamePins f _ _)
    | txnRead cmd => exact rtcFetch_renamed hf (h.setRtcUpc rest) cmd (decodeWireRead_renamePins f _)
    | prim p => exact ((h.setRtcUpc rest).rtcPerform hf p).rtcSettle.next

theorem stepRtc_renamed (h : s.PinsRenamed f t) : OutcomeRenamed f (stepRtc execAt s) (stepRtc execAt t) := by
  have hb : t.rtc.busy = s.rtc.busy := by rw [h.rtc]; rfl
  unfold stepRtc
  rw [hb]
  split
  · exact rtcMicroStep_renamed hf h
  · exact h.next

theorem moveOf_renamed (h : s.PinsRenamed f t) (a : Turn) :
    OutcomeRenamed f (moveOf execAt a s) (moveOf execAt a t) := by
  cases a with
  | host => exact stepHost_renamed hf h
  | dht => exact stepDht_renamed hf h
  | rtc => exact stepRtc_renamed hf h
  | reset => exact h.resetEvent.next

theorem stepAt_renamed (h : s.PinsRenamed f t) : OutcomeRenamed f (stepAt s) (stepAt t) := by
  unfold stepAt
  rw [h.mover]
  exact moveOf_renamed hf h.takeTurn s.mover

end

/-! ### The host's machine (log 6) -/

theorem exec_eq_execAt : exec = execAt := by
  funext i s
  cases i <;> rfl

theorem step_eq_stepAt (s : State) : step s = stepAt s := by
  rw [step, stepAt, exec_eq_execAt]

/-- Settles O54: each operation of the model keeps the renaming of pins, so the step does; and `exec` has the arms of
`execAt`. -/
theorem pinsAreOnlyNames : Obligations.PinsAreOnlyNames :=
  ⟨fun _ _ _ _ _ _ _ hf h => stepAt_renamed hf h, step_eq_stepAt⟩

end Sys2Proof.Machine
end

section
/-! PROOF. What executing an instruction can make of a state: one inversion lemma over all instructions (the issue steps
of 40_port_primitives.md R112 to R114, the first step of a transaction, 42_rtc_transactions.md R165, R166), and what the
micro-programs that the host operations load have in common (30_encoding.md R83, 42_rtc_transactions.md R167). -/

namespace Sys2Proof.Machine

/-! ### Admission (60_exceptions.md R236) -/

theorem checkBound_eq_none {s : State} : s.checkBound = none ↔ s.rtc.lines.isSome = true := by
  simp [State.checkBound, ← Option.isSome_iff_ne_none]

theorem checkRtcIdle_eq_none {s : State} : s.checkRtcIdle = none ↔ s.rtc.busy = false := by simp [State.checkRtcIdle]

theorem checkDhtIdle_eq_none {s : State} : s.checkDhtIdle = none ↔ s.dht.busy = false := by simp [State.checkDhtIdle]

theorem checkPinShared_eq_none {s : State} {p : PinId} : s.checkPinShared p = none ↔ s.rtc.owns p = false := by
  simp [State.checkPinShared]

theorem checkPinDistinct_eq_none {clk dio ce : PinId} :
    checkPinDistinct clk dio ce = none ↔ clk ≠ dio ∧ clk ≠ ce ∧ dio ≠ ce := by
  simp [checkPinDistinct, pinsDistinct]

/-- An operation is refused, or there is no reason to and it goes on. -/
theorem admission_cases (s : State) (reason : Option OpRefusal) (accepted : State) :
    (∃ r, s.admission reason accepted = s.refuse r) ∨
      (reason = none ∧ s.admission reason accepted = accepted) := by
  cases reason with
  | none => exact .inr ⟨rfl, rfl⟩
  | some r => exact .inl ⟨r, rfl⟩

/-! ### The relock of a micro-program (42_rtc_transactions.md R167) -/

theorem relocks_iff (prog : List (RtcMicro PinId)) :
    relocks prog = true ↔ ∀ m, (prog.filter RtcMicro.isWrite).getLast? = some m → m.isRelock = true := by
  unfold relocks
  cases (prog.filter RtcMicro.isWrite).getLast? <;> simp

theorem relocks_append {p q : List (RtcMicro PinId)} (hp : relocks p = true) (hq : relocks q = true) :
    relocks (p ++ q) = true := by
  rw [relocks_iff] at *
  intro m hm
  rw [List.filter_append, List.getLast?_append, Option.or_eq_some_iff] at hm
  obtain hm | ⟨-, hm⟩ := hm
  · exact hq m hm
  · exact hp m hm

/-- What is left after the first step still ends relocked. -/
theorem relocks_tail {m : RtcMicro PinId} {rest : List (RtcMicro PinId)} (h : relocks (m :: rest) = true) :
    relocks rest = true := by
  rw [relocks_iff] at *
  intro w hw
  refine h w ?_
  rw [List.filter_cons]
  split
  · rw [List.getLast?_cons, hw]; rfl
  · exact hw

/-- Port events write nothing to the device's registers. -/
theorem relocks_prims_append (ps : List (RtcPrim PinId)) (rest : List (RtcMicro PinId)) :
    relocks (ps.map .prim ++ rest) = relocks rest := by
  have h : (ps.map RtcMicro.prim).filter RtcMicro.isWrite = [] := by simp [List.filter_eq_nil_iff, RtcMicro.isWrite]
  rw [relocks, List.filter_append, h, List.nil_append, relocks]

/-! ### The micro-programs of host operations -/

/-- A micro-program that an RTC operation may load: it has a step to perform, sends only the command bytes of R83, and
ends relocked (R167). -/
structure Loadable (prog : List (RtcMicro PinId)) : Prop where
  nonempty : prog ≠ []
  legal : ∀ m ∈ prog, m.legal = true
  relock : relocks prog = true

theorem Loadable.append {p q : List (RtcMicro PinId)} (hp : Loadable p) (hq : Loadable q) : Loadable (p ++ q) where
  nonempty := List.append_ne_nil_of_left_ne_nil hp.nonempty q
  legal := List.forall_mem_append.2 ⟨hp.legal, hq.legal⟩
  relock := relocks_append hp.relock hq.relock

/-- The write command of a RAM byte that exists is one of R83's, and so is its read command. -/
theorem ramCommand_legal {idx : Nat} (h : idx ≤ 30) (src : ByteSource) :
    RtcMicro.legal (.txnWrite (ramWriteCommand idx) src) = true ∧
      RtcMicro.legal (.txnRead (readCommand (ramWriteCommand idx))) = true := by
  interval_cases idx <;> exact ⟨rfl, rfl⟩

/-- The write command of a field is one of R83's, and so is its read command. -/
theorem fieldCommand_legal (f : Field) (src : ByteSource) :
    RtcMicro.legal (.txnWrite f.command src) = true ∧ RtcMicro.legal (.txnRead (readCommand f.command)) = true := by
  cases f <;> exact ⟨rfl, rfl⟩

theorem memRead_loadable {w : Byte} (h : RtcMicro.legal (.txnRead (readCommand w)) = true) : Loadable (memRead w) where
  nonempty := List.cons_ne_nil _ _
  legal := List.forall_mem_singleton.2 h
  relock := rfl

theorem guardedWrite_loadable {w : Byte} {v : ByteSource} (h : RtcMicro.legal (.txnWrite w v) = true) :
    Loadable (guardedWrite w v) where
  nonempty := List.cons_ne_nil _ _
  legal := List.forall_mem_cons.2 ⟨rfl, List.forall_mem_cons.2 ⟨h, List.forall_mem_singleton.2 rfl⟩⟩
  relock := rfl

theorem memReadField_loadable (f : Field) : Loadable (memRead f.command) :=
  memRead_loadable (fieldCommand_legal f (.imm 0#8)).2

theorem guardedWriteField_loadable (f : Field) (v : ByteSource) : Loadable (guardedWrite f.command v) :=
  guardedWrite_loadable (fieldCommand_legal f v).1

theorem setField_loadable (f : Field) (v : Nat) : Loadable (setField f v) := guardedWriteField_loadable f _

/-! ### The bodies of transactions (42_rtc_transactions.md R165, R166) -/

/-- The port events of a transaction after its first: there are some, and they count at most 8 bits (R30). -/
def LegalBody (body : PinId → PinId → PinId → List (RtcPrim PinId)) : Prop :=
  ∀ clk dio ce, body clk dio ce ≠ [] ∧ (body clk dio ce).all (fun p => RtcMicro.legal (.prim p)) = true

theorem writeBody_legal (v : Byte) : LegalBody fun clk dio ce => writeBody clk dio ce v :=
  fun _ _ _ => ⟨List.cons_ne_nil _ _, rfl⟩

theorem readBody_legal : LegalBody readBody := fun _ _ _ => ⟨List.cons_ne_nil _ _, rfl⟩

/-! ### The cases of `exec` -/

/-- The state after the first event of a transaction (R165, R166): `CE` is high, `SR` holds the command, and `ps` is the
rest of the transaction. -/
def State.openTxn (s : State) (ce : PinId) (cmd : Byte) (ps : List (RtcPrim PinId)) : State :=
  (s.drive .rtc ce true).setRtc
    { s.rtc with sr := cmd, shcnt := 0, busy := true, upc := ps.map .prim ++ s.rtc.upc }

/-- What executing an instruction can make of the state `s`. -/
inductive ExecCase (s : State) : Instr → State → Prop where
  /-- A host operation is refused, faults, or completes at once: an entry of the history is all that is new. -/
  | logged {i : Instr} (e : Entry PinId) (hi : isHostOp i = true) : ExecCase s i (s.log e)
  /-- A query starts. -/
  | query (pin : PinId) (var pull diag : Nat) (hb : s.dht.busy = false) (ho : s.rtc.owns pin = false) :
    ExecCase s (.dhtQuery pin var pull diag)
      (s.setDht (s.dht.start pin (variantOperand var) (bitOperand pull) (bitOperand diag)))
  /-- The unit is set. -/
  | unit (u : Nat) (hb : s.dht.busy = false) :
    ExecCase s (.dhtUnit u) ((s.setDht { s.dht with unit := unitOperand u }).complete .dht .nothing)
  /-- The RTC engine is bound to three distinct pins and begins to drive two of them low. -/
  | bind (clk dio ce : PinId) (hb : s.rtc.busy = false) (hd : clk ≠ dio ∧ clk ≠ ce ∧ dio ≠ ce) :
    ExecCase s (.rtcBind clk dio ce)
      (s.setRtc { s.rtc.launch [.prim (.drive ce false), .prim (.drive clk false)] .nothing with
        clkPin := some clk, dioPin := some dio, cePin := some ce })
  /-- Another operation of the RTC engine starts. -/
  | launch {i : Instr} {prog : List (RtcMicro PinId)} (ret : RtcReturn) (hi : isHostOp i = true)
    (hb : s.rtc.busy = false) (hl : s.rtc.lines.isSome = true) (hp : Loadable prog) :
    ExecCase s i (s.setRtc (s.rtc.launch prog ret))
  /-- A wire command without lines or with a RAM index above 30 performs no event (log 18). -/
  | refuseTxn {i : Instr} (r : OpRefusal) (hi : isHostOp i = false) : ExecCase s i (s.refuseTxn r)
  /-- A wire command opens its transaction. -/
  | openTxn {i : Instr} {ps : List (RtcPrim PinId)} (clk dio ce : PinId) (cmd : Byte) (hi : isHostOp i = false)
    (hl : s.rtc.lines = some (clk, dio, ce)) (hne : ps ≠ [])
    (hp : ps.all (fun p => RtcMicro.legal (.prim p)) = true) : ExecCase s i (s.openTxn ce cmd ps)

section
variable {s t : State} {i : Instr}

theorem ExecCase.of_returnResult (hi : isHostOp i = true) (reg : Option Milli) : ExecCase s i (s.returnResult reg) := by
  cases reg with
  | none => exact .logged _ hi
  | some m => exact .logged _ hi

/-- A host operation is refused, or does what it does when there is no reason to refuse it. -/
theorem ExecCase.of_admission {reason : Option OpRefusal} {accepted : State} (hi : isHostOp i = true)
    (hx : exec i s = .next (s.admission reason accepted)) (ha : reason = none → ExecCase s i accepted)
    (h : exec i s = .next t) : ExecCase s i t := by
  obtain rfl : s.admission reason accepted = t := Host.Outcome.next.inj (hx.symm.trans h)
  obtain ⟨r, hr⟩ | ⟨hn, ht⟩ := admission_cases s reason accepted
  · exact hr ▸ .logged _ hi
  · exact ht.symm ▸ ha hn

/-- An operation of the RTC engine other than `rtc.bind`. -/
theorem ExecCase.of_rtcOperation {operands : Option OpRefusal} {prog : List (RtcMicro PinId)} {ret : RtcReturn}
    (hi : isHostOp i = true) (hx : exec i s = rtcOperation operands prog ret s)
    (hp : operands = none → Loadable prog) (h : exec i s = .next t) : ExecCase s i t := by
  refine .of_admission hi hx (fun hn => ?_) h
  obtain ⟨ho, hl, hb⟩ : operands = none ∧ s.rtc.lines.isSome = true ∧ s.rtc.busy = false := by
    simpa only [Option.or_eq_none_iff, checkBound_eq_none, checkRtcIdle_eq_none] using hn
  exact .launch ret hi hb hl (hp ho)

/-- A wire command. -/
theorem ExecCase.of_wireTransaction {operands : Option OpRefusal} {cmd : Byte}
    {body : PinId → PinId → PinId → List (RtcPrim PinId)} (hi : isHostOp i = false) (hb : LegalBody body)
    (h : wireTransaction operands cmd body s = .next t) : ExecCase s i t := by
  unfold wireTransaction at h
  cases operands with
  | some r => cases h; exact .refuseTxn r hi
  | none =>
    cases hl : s.rtc.lines with
    | none => rw [hl] at h; cases h; exact .refuseTxn .unbound hi
    | some l =>
      rw [hl] at h; cases h
      obtain ⟨hne, hall⟩ := hb l.1 l.2.1 l.2.2
      exact .openTxn _ _ _ cmd hi hl hne hall

theorem ExecCase.of_wireWrite (hi : isHostOp i = false) (operands : Option OpRefusal) (cmd v : Byte)
    (h : wireWrite operands cmd v s = .next t) : ExecCase s i t := .of_wireTransaction hi (writeBody_legal v) h

theorem ExecCase.of_wireRead (hi : isHostOp i = false) (operands : Option OpRefusal) (cmd : Byte)
    (h : wireRead operands cmd s = .next t) : ExecCase s i t := .of_wireTransaction hi readBody_legal h

/-- The inversion of `exec`: each instruction has one of the cases. -/
theorem execCase (h : exec i s = .next t) : ExecCase s i t := by
  cases i with
  | dhtQuery pin var pull diag =>
    refine .of_admission rfl rfl (fun hn => ?_) h
    rw [Option.or_eq_none_iff, Option.or_eq_none_iff, checkPinShared_eq_none, checkDhtIdle_eq_none] at hn
    obtain ⟨-, ho, hb⟩ := hn
    exact .query pin var pull diag hb ho
  | dhtUnit u =>
    refine .of_admission rfl rfl (fun hn => ?_) h
    exact .unit u (checkDhtIdle_eq_none.1 (Option.or_eq_none_iff.1 hn).2)
  | dhtRdh | dhtRdt => exact .of_admission rfl rfl (fun _ => .of_returnResult rfl _) h
  | dhtRdcs | dhtRdsr => exact .of_admission rfl rfl (fun _ => .logged _ rfl) h
  | rtcBind clk dio ce =>
    refine .of_admission rfl rfl (fun hn => ?_) h
    rw [Option.or_eq_none_iff, checkPinDistinct_eq_none, checkRtcIdle_eq_none] at hn
    obtain ⟨hd, hb⟩ := hn
    exact .bind clk dio ce hb hd
  | rtcGetsec | rtcGetmin | rtcGethour | rtcGetday | rtcGetmonth | rtcGetwday | rtcGetyear =>
    exact .of_rtcOperation rfl rfl (fun _ => memReadField_loadable _) h
  | rtcSetsec v | rtcSetmin v | rtcSethour v | rtcSetday v | rtcSetmonth v | rtcSetwday v | rtcSetyear v =>
    exact .of_rtcOperation rfl rfl (fun _ => setField_loadable _ v) h
  | rtcSetdt y mo dd wd hh mi ss =>
    refine .of_rtcOperation rfl rfl (fun _ => ?_) h
    exact (setField_loadable .year y).append <| (setField_loadable .month mo).append <|
      (setField_loadable .day dd).append <| (setField_loadable .weekday wd).append <|
      (setField_loadable .hour hh).append <| (setField_loadable .minute mi).append <| setField_loadable .second ss
  | rtcStart | rtcPause =>
    exact .of_rtcOperation rfl rfl
      (fun _ => (memReadField_loadable .second).append (guardedWriteField_loadable .second _)) h
  | rtcRdram idx =>
    refine .of_rtcOperation rfl rfl (fun hn => ?_) h
    exact memRead_loadable (ramCommand_legal (checkRamIndex_eq_none.1 hn) (.imm 0#8)).2
  | rtcWrram idx d =>
    refine .of_rtcOperation rfl rfl (fun hn => ?_) h
    exact guardedWrite_loadable (ramCommand_legal (checkRamIndex_eq_none.1 (Option.or_eq_none_iff.1 hn).2) _).1
  | ds1302WriteSec d | ds1302WriteMin d | ds1302WriteHour d | ds1302WriteDate d | ds1302WriteMonth d
  | ds1302WriteWday d | ds1302WriteYear d | ds1302WriteWp d => exact .of_wireWrite rfl none _ d h
  | ds1302WriteRam idx d => exact .of_wireWrite rfl (checkRamIndex idx) _ d h
  | ds1302ReadSec | ds1302ReadMin | ds1302ReadHour | ds1302ReadDate | ds1302ReadMonth | ds1302ReadWday
  | ds1302ReadYear | ds1302ReadWp => exact .of_wireRead rfl none _ h
  | ds1302ReadRam idx => exact .of_wireRead rfl (checkRamIndex idx) _ h

end

/-! ### The cases of a micro-step of the RTC engine (40_port_primitives.md R111) -/

/-- A write transaction's command byte is decoded to a wire command. -/
theorem isHostOp_of_decodeWireWrite {cmd dat : Byte} {i : Instr} (h : decodeWireWrite cmd dat = .ok i) :
    isHostOp i = false := by
  unfold decodeWireWrite at h
  cases hr : ramIndexOf cmd <;> rw [hr] at h <;> split_ifs at h <;> cases h <;> rfl

/-- A read transaction's command byte is decoded to a wire command. -/
theorem isHostOp_of_decodeWireRead {cmd : Byte} {i : Instr} (h : decodeWireRead cmd = .ok i) :
    isHostOp i = false := by
  unfold decodeWireRead at h
  cases hr : ramIndexOf cmd <;> rw [hr] at h <;> split_ifs at h <;> cases h <;> rfl

/-- A micro-step of the RTC engine executes a wire command, or performs a port event, and takes it off `UPC`. -/
theorem rtcMicroStep_cases {s t : State} (h : rtcMicroStep exec s = .next t) :
    ∃ m rest, s.rtc.upc = m :: rest ∧
      ((∃ i, isHostOp i = false ∧ ExecCase (s.setRtcUpc rest) i t) ∨
        ∃ p, m = .prim p ∧ t = (rtcPerform p (s.setRtcUpc rest)).rtcSettle) := by
  unfold rtcMicroStep at h
  cases hu : s.rtc.upc with
  | nil => rw [hu] at h; cases h
  | cons m rest =>
    rw [hu] at h
    refine ⟨m, rest, rfl, ?_⟩
    cases m with
    | txnWrite cmd src =>
      cases hd : decodeWireWrite (Pin := PinId) cmd (src.value s.rtc.raw) with
      | error e => simp [rtcFetch, hd] at h
      | ok i =>
        simp only [rtcFetch, hd] at h
        exact .inl ⟨i, isHostOp_of_decodeWireWrite hd, execCase h⟩
    | txnRead cmd =>
      cases hd : decodeWireRead (Pin := PinId) cmd with
      | error e => simp [rtcFetch, hd] at h
      | ok i =>
        simp only [rtcFetch, hd] at h
        exact .inl ⟨i, isHostOp_of_decodeWireRead hd, execCase h⟩
    | prim p => exact .inr ⟨p, rfl, (Host.Outcome.next.inj h).symm⟩

end Sys2Proof.Machine
end

section
/-! PROOF. The machine's invariant is kept by every step. It is cut into what it says of the pin drivers, of the RTC
engine and of the DHT engine, because each move changes few of the three (40_port_primitives.md R111). -/

namespace Sys2Proof.Machine

/-! ### The parts of the invariant -/

/-- The pin tables have their form (log 17). -/
structure State.PinsOk (s : State) : Prop where
  modes : PinTable.wf .input s.modes
  pulls : PinTable.wf .off s.pulls

/-- What the invariant says of the RTC engine, whether it is busy or not. -/
structure RtcEngine.Sound (r : RtcEngine PinId) : Prop where
  binding : r.bindingOk
  commands : ∀ m ∈ r.upc, m.legal = true
  relock : relocks r.upc = true
  shcnt : r.shcnt ≤ 8

/-- What the invariant says of the RTC engine. -/
structure RtcEngine.Ok (r : RtcEngine PinId) : Prop extends r.Sound where
  busy : r.busy = true → r.lines.isSome ∧ r.upc ≠ []
  idle : r.busy = false → r.upc = []

/-- What the invariant says of the DHT engine at every label. -/
structure DhtEngine.Sound (d : DhtEngine PinId) : Prop where
  bitcnt : d.bitcnt ≤ Config.nBits
  results : d.hum.isSome = d.temp.isSome
  flags : d.csv = true → d.srsp = true

/-- What the invariant says of the DHT engine under the poll bound `bound`. -/
structure DhtEngine.Ok (bound : Option Nat) (d : DhtEngine PinId) : Prop extends d.Sound where
  label : d.busy = true → d.labelOk bound

theorem State.inv_iff {s : State} : s.Inv ↔ s.PinsOk ∧ s.rtc.Ok ∧ s.dht.Ok s.pollBound where
  mp h :=
    ⟨⟨h.modesOk, h.pullsOk⟩, ⟨⟨h.binding, h.commands, h.relock, h.shcntOk⟩, h.rtcBusy, h.rtcIdle⟩,
      ⟨⟨h.bitcntOk, h.results, h.flags⟩, h.label⟩⟩
  mpr h := by
    obtain ⟨⟨modes, pulls⟩, ⟨⟨binding, commands, relock, shcnt⟩, busy, idle⟩, ⟨⟨bitcnt, results, flags⟩, label⟩⟩ := h
    exact ⟨modes, pulls, binding, busy, idle, commands, relock, shcnt, bitcnt, results, flags, label⟩

/-- The invariant does not depend on the history. -/
theorem State.Inv.log {s : State} (h : s.Inv) (e : Entry PinId) : (s.log e).Inv := { h with }

/-- The invariant does not depend on the host's requests. -/
theorem State.Inv.setPending {s : State} (h : s.Inv) (q : List (Request PinId)) : (s.setPending q).Inv := { h with }

/-- The invariant does not depend on the turns. -/
theorem State.Inv.takeTurn {s : State} (h : s.Inv) : s.takeTurn.Inv := { h with }

theorem State.Inv.setRtc {s : State} (h : s.Inv) {r : RtcEngine PinId} (hr : r.Ok) : (s.setRtc r).Inv := by
  obtain ⟨hp, -, hd⟩ := State.inv_iff.1 h
  exact State.inv_iff.2 ⟨⟨hp.modes, hp.pulls⟩, hr, hd⟩

theorem State.Inv.setDht {s : State} (h : s.Inv) {d : DhtEngine PinId} (hd : d.Ok s.pollBound) : (s.setDht d).Inv := by
  obtain ⟨hp, hr, -⟩ := State.inv_iff.1 h
  exact State.inv_iff.2 ⟨⟨hp.modes, hp.pulls⟩, hr, hd⟩

/-- The reset event brings the invariant about in every state (70_reset_and_hazards.md R260). -/
theorem resetEvent_inv (s : State) : s.resetEvent.Inv where
  modesOk := reset_pins_wf.1
  pullsOk := reset_pins_wf.2
  binding := .inl ⟨rfl, rfl, rfl⟩
  rtcBusy h := nomatch h
  rtcIdle _ := rfl
  commands _ hm := nomatch hm
  relock := rfl
  shcntOk := Nat.zero_le 8
  bitcntOk := Nat.zero_le _
  results := rfl
  flags h := nomatch h
  label h := nomatch h

/-! ### The pins -/

theorem rtcPerform_pinsOk {s : State} (h : s.PinsOk) (p : RtcPrim PinId) : (rtcPerform p s).PinsOk := by
  cases p with
  | drive pin v => exact ⟨drive_wf h.modes .rtc pin v, h.pulls⟩
  | driveBit dio i => exact ⟨drive_wf h.modes .rtc dio _, h.pulls⟩
  | clockLow clk n after => exact ⟨drive_wf h.modes .rtc clk false, h.pulls⟩
  | releaseDio dio => exact ⟨release_wf_modes h.modes .rtc dio false, release_wf_pulls h.pulls .rtc dio false⟩
  | sampleBit dio i => exact ⟨h.modes, h.pulls⟩

theorem dhtFinish_pinsOk {s : State} (h : s.PinsOk) (status : Status) (elapsed : Option Clock) :
    (s.dhtFinish status elapsed).PinsOk := by
  obtain ⟨-, hm, hp, -⟩ := dhtFinish_frame s status elapsed
  exact ⟨hm ▸ h.modes, hp ▸ h.pulls⟩

theorem dhtWait_pinsOk {s : State} (h : s.PinsOk) (v : Level) (n : Nat) (again : Nat → DhtLabel) (next : DhtLabel) :
    (s.dhtWait v n again next).PinsOk := by
  obtain ⟨-, hm, hp, -⟩ := dhtWait_frame s v n again next
  exact ⟨hm ▸ h.modes, hp ▸ h.pulls⟩

theorem dhtMicroStep_pinsOk {s : State} (h : s.PinsOk) : (dhtMicroStep s).PinsOk := by
  have same : (s.sample .dht s.dht.qPin).PinsOk := ⟨h.modes, h.pulls⟩
  unfold dhtMicroStep
  cases s.dht.upc with
  | driveLow => exact ⟨drive_wf h.modes .dht s.dht.qPin false, h.pulls⟩
  | releaseLine =>
    exact ⟨release_wf_modes h.modes .dht s.dht.qPin s.dht.qPull, release_wf_pulls h.pulls .dht s.dht.qPin s.dht.qPull⟩
  | presenceLow n | presenceHigh n | bitHigh k n | bitLow k n => exact dhtWait_pinsOk h ..
  | sampleResponse =>
    simp only [State.dhtSampleResponse]
    split
    · exact dhtFinish_pinsOk same ..
    · exact ⟨h.modes, h.pulls⟩
  | readEnd =>
    exact dhtFinish_pinsOk (s := (s.now .dht).setDht (s.dht.publish s.nextClock)) ⟨h.modes, h.pulls⟩ ..
  | readStart | holdLow | holdRelease | bitDelay k | bitSample k | emit status elapsed => exact ⟨h.modes, h.pulls⟩

/-! ### The DHT engine (41_dht_sampler.md R120 to R139) -/

section
variable {s : State} {bound : Option Nat}

/-- A query starts with its flags, `FRAME` and `BITCNT` cleared (R122). -/
theorem DhtEngine.Ok.start {d : DhtEngine PinId} (h : d.Ok bound) (pin : PinId) (var : Variant) (pull diag : Bool) :
    (d.start pin var pull diag).Ok bound where
  bitcnt := Nat.zero_le _
  results := h.results
  flags hc := nomatch hc
  label _ := ⟨rfl, rfl, rfl, rfl⟩

/-- Setting the unit of an idle engine. -/
theorem DhtEngine.Ok.setUnit {d : DhtEngine PinId} (h : d.Ok bound) (hb : d.busy = false) (u : TempUnit) :
    DhtEngine.Ok bound { d with unit := u } where
  bitcnt := h.bitcnt
  results := h.results
  flags := h.flags
  label hb' := absurd (hb.symm.trans hb') Bool.false_ne_true

/-- The engine goes on at a label that agrees with it. -/
theorem dhtGoto_ok (h : s.dht.Sound) {l : DhtLabel} (hl : DhtEngine.labelOk { s.dht with upc := l } bound) :
    (s.dhtGoto l).dht.Ok bound := ⟨⟨h.bitcnt, h.results, h.flags⟩, fun _ => hl⟩

/-- An engine whose query returned is idle, and then no label need agree with it. -/
theorem dhtReturn_ok (h : s.dht.Sound) (status : Status) : (s.dhtReturn status).dht.Ok bound :=
  ⟨⟨h.bitcnt, h.results, h.flags⟩, nofun⟩

/-- The finish, if the label of the diagnostic event agrees with the engine (R138). -/
theorem dhtFinish_ok (h : s.dht.Sound) {status : Status} {elapsed : Option Clock}
    (hl : DhtEngine.labelOk { s.dht with upc := .emit status elapsed } bound) :
    (s.dhtFinish status elapsed).dht.Ok bound := by
  unfold State.dhtFinish
  split
  · exact dhtGoto_ok h hl
  · exact dhtReturn_ok h status

/-- A wait can time out only under a bound (R108). -/
theorem isSome_of_pollExpired {n : Nat} (h : pollExpired bound n = true) : bound.isSome = true := by
  cases bound with
  | none => simp [pollExpired] at h
  | some b => rfl

/-- One sample of a wait of a sensor that answered, before the checksum is known: the wait goes on, ends, or times
out (R108, R139). -/
theorem dhtWait_ok (h : s.dht.Sound) (hc : s.dht.csv = false) (hr : s.dht.srsp = true) {v : Level} {n : Nat}
    {again : Nat → DhtLabel} {next : DhtLabel}
    (ha : DhtEngine.labelOk { s.dht with upc := again (n + 1) } s.pollBound)
    (hn : DhtEngine.labelOk { s.dht with upc := next } s.pollBound) :
    (s.dhtWait v n again next).dht.Ok s.pollBound := by
  unfold State.dhtWait
  dsimp only
  split
  · exact dhtGoto_ok (s := s.sample .dht s.dht.qPin) h hn
  · split
    · next hp => exact dhtFinish_ok (s := s.sample .dht s.dht.qPin) h ⟨hc, hr, rfl, isSome_of_pollExpired hp⟩
    · exact dhtGoto_ok (s := s.sample .dht s.dht.qPin) h ha

/-- The response sample: the sensor answered, or it did not (R124). -/
theorem dhtSampleResponse_ok (h : s.dht.Sound)
    (hl : s.dht.csv = false ∧ s.dht.srsp = false ∧ s.dht.bitcnt = 0 ∧ s.dht.frame = 0#Config.nBits) :
    s.dhtSampleResponse.dht.Ok bound := by
  obtain ⟨hc, hr, hk, hf⟩ := hl
  unfold State.dhtSampleResponse
  dsimp only
  split
  · exact dhtFinish_ok (s := s.sample .dht s.dht.qPin) h ⟨hc, hr, rfl⟩
  · exact ⟨⟨h.bitcnt, h.results, fun _ => rfl⟩, fun _ => ⟨hc, rfl, hk, hf⟩⟩

/-- The sample of bit `k` (R126). -/
theorem dhtSampleBit_ok (h : s.dht.Sound) {k : Nat}
    (hl : s.dht.csv = false ∧ s.dht.srsp = true ∧ s.dht.bitcnt = k ∧ k < Config.nBits) :
    (s.dhtSampleBit k).dht.Ok bound := by
  obtain ⟨hc, hr, -, hk⟩ := hl
  refine ⟨⟨hk, h.results, h.flags⟩, fun _ => ?_⟩
  by_cases hlast : k + 1 < Config.nBits
  · simp [State.dhtSampleBit, DhtEngine.labelOk, hlast, hc, hr]
  · have hend : k + 1 = Config.nBits := by omega
    simp [State.dhtSampleBit, DhtEngine.labelOk, hend, hc, hr]

/-- The status agrees with the checksum flag, and both results are published (R129, R136, R137). -/
theorem dhtReadEnd_ok (h : s.dht.Sound) (hr : s.dht.srsp = true) : s.dhtReadEnd.dht.Ok bound := by
  have hs : (s.dht.publish s.nextClock).Sound := ⟨h.bitcnt, rfl, fun _ => hr⟩
  refine dhtFinish_ok (s := (s.now .dht).setDht (s.dht.publish s.nextClock)) hs ?_
  cases hc : checksumOk (pack s.dht.frame) with
  | true => exact ⟨hc, hr, rfl, rfl⟩
  | false => exact ⟨hc, hr, rfl, rfl⟩

/-- A micro-step of a busy engine, label by label. -/
theorem dhtMicroStep_ok (h : s.dht.Ok s.pollBound) (hb : s.dht.busy = true) :
    (dhtMicroStep s).dht.Ok s.pollBound := by
  have hs : s.dht.Sound := h.toSound
  have hl := h.label hb
  unfold DhtEngine.labelOk at hl
  unfold dhtMicroStep
  generalize s.dht.upc = label at hl ⊢
  cases label with
  | readStart => exact ⟨⟨hs.bitcnt, hs.results, hs.flags⟩, fun _ => hl⟩
  | driveLow => exact dhtGoto_ok (s := s.drive .dht s.dht.qPin false) hs hl
  | holdLow => exact dhtGoto_ok (s := s.delayMs .dht _) hs hl
  | releaseLine => exact dhtGoto_ok (s := s.release .dht s.dht.qPin s.dht.qPull) hs hl
  | holdRelease | bitDelay k => exact dhtGoto_ok (s := s.delayUs .dht _) hs hl
  | sampleResponse => exact dhtSampleResponse_ok hs hl
  | presenceLow n | bitHigh k n | bitLow k n =>
    have ⟨hc, hr, _⟩ := hl
    exact dhtWait_ok hs hc hr hl hl
  | presenceHigh n =>
    have ⟨hc, hr, hk, _⟩ := hl
    exact dhtWait_ok hs hc hr hl ⟨hc, hr, hk, by decide⟩
  | bitSample k => exact dhtSampleBit_ok hs hl
  | readEnd =>
    obtain ⟨-, hr, -⟩ := hl
    exact dhtReadEnd_ok hs hr
  | emit status elapsed => exact dhtReturn_ok (s := s.emit .dht _) hs status

end

theorem stepDht_inv {s t : State} (h : s.Inv) (hs : stepDht s = .next t) : t.Inv := by
  unfold stepDht at hs
  split at hs
  · next hb =>
    cases hs
    obtain ⟨hp, hr, hd⟩ := State.inv_iff.1 h
    obtain ⟨er, -, -, eb⟩ := dhtMicroStep_frame s
    refine State.inv_iff.2 ⟨dhtMicroStep_pinsOk hp, ?_, ?_⟩
    · rw [er]; exact hr
    · rw [eb]; exact dhtMicroStep_ok hd hb
  · cases hs; exact h

/-! ### The RTC engine (42_rtc_transactions.md R161 to R173) -/

/-- The engine started with a loadable micro-program. -/
theorem RtcEngine.Ok.launch {r : RtcEngine PinId} (h : r.Ok) (hl : r.lines.isSome = true)
    {prog : List (RtcMicro PinId)} (hp : Loadable prog) (ret : RtcReturn) : (r.launch prog ret).Ok where
  binding := h.binding
  commands := hp.legal
  relock := hp.relock
  shcnt := h.shcnt
  busy _ := ⟨hl, hp.nonempty⟩
  idle hb := nomatch hb

/-- The engine bound to three distinct pins, about to drive two of them (R161). -/
theorem RtcEngine.Ok.bind {r : RtcEngine PinId} (h : r.Ok) {clk dio ce : PinId}
    (hd : clk ≠ dio ∧ clk ≠ ce ∧ dio ≠ ce) :
    RtcEngine.Ok { r.launch [.prim (.drive ce false), .prim (.drive clk false)] .nothing with
      clkPin := some clk, dioPin := some dio, cePin := some ce } where
  binding := .inr ⟨clk, dio, ce, rfl, rfl, rfl, hd⟩
  commands := List.forall_mem_cons.2 ⟨rfl, List.forall_mem_singleton.2 rfl⟩
  relock := rfl
  shcnt := h.shcnt
  busy _ := ⟨rfl, List.cons_ne_nil _ _⟩
  idle hb := nomatch hb

/-- What is left of the micro-program when its first step is taken off. -/
theorem RtcEngine.Sound.tail {r : RtcEngine PinId} (h : r.Sound) {m : RtcMicro PinId} {rest : List (RtcMicro PinId)}
    (hu : r.upc = m :: rest) : RtcEngine.Sound { r with upc := rest } where
  binding := h.binding
  commands _ hm := h.commands _ (hu ▸ List.mem_cons_of_mem m hm)
  relock := relocks_tail (hu ▸ h.relock)
  shcnt := h.shcnt

/-- The engine idle, with nothing left to perform. -/
theorem RtcEngine.Sound.stop {r : RtcEngine PinId} (h : r.Sound) :
    RtcEngine.Ok { r with busy := false, upc := [] } where
  binding := h.binding
  commands _ hm := nomatch hm
  relock := rfl
  shcnt := h.shcnt
  busy hb := nomatch hb
  idle _ := rfl

/-- After the first event of a transaction its body stands before what was left of the micro-program. -/
theorem RtcEngine.Sound.openTxn {s : State} (h : s.rtc.Sound) (ce : PinId) (cmd : Byte) {ps : List (RtcPrim PinId)}
    (hl : s.rtc.lines.isSome = true) (hne : ps ≠ []) (hp : ps.all (fun p => RtcMicro.legal (.prim p)) = true) :
    (s.openTxn ce cmd ps).rtc.Ok where
  binding := h.binding
  commands := List.forall_mem_append.2 ⟨List.forall_mem_map.2 (List.all_eq_true.1 hp), h.commands⟩
  relock := (relocks_prims_append ps _).trans h.relock
  shcnt := Nat.zero_le 8
  busy _ := ⟨hl, by simp [State.openTxn, hne]⟩
  idle hb := nomatch hb

/-- A port event counts at most 8 bits (10_state.md R30). -/
theorem rtcPerform_shcnt {s : State} (h : s.rtc.shcnt ≤ 8) {p : RtcPrim PinId} (hp : RtcMicro.legal (.prim p) = true) :
    (rtcPerform p s).rtc.shcnt ≤ 8 := by
  cases p with
  | drive pin v => exact h
  | driveBit dio i => exact h
  | clockLow clk n after =>
    cases after with
    | nothing => exact of_decide_eq_true hp
    | load b => exact Nat.zero_le 8
    | take => exact of_decide_eq_true hp
  | releaseDio dio => exact Nat.zero_le 8
  | sampleBit dio i => exact h

theorem rtcPerform_lines (p : RtcPrim PinId) (s : State) : (rtcPerform p s).rtc.lines = s.rtc.lines := by
  obtain ⟨-, -, -, -, -, -, -, -, hclk, hdio, hce⟩ := rtcPerform_frame p s
  rw [RtcEngine.lines, RtcEngine.lines, hclk, hdio, hce]

theorem rtcPerform_sound {s : State} (h : s.rtc.Sound) {p : RtcPrim PinId} (hp : RtcMicro.legal (.prim p) = true) :
    (rtcPerform p s).rtc.Sound := by
  obtain ⟨-, -, -, -, -, -, -, hu, hclk, hdio, hce⟩ := rtcPerform_frame p s
  refine ⟨?_, ?_, ?_, rtcPerform_shcnt h.shcnt hp⟩
  · rw [RtcEngine.bindingOk, hclk, hdio, hce]; exact h.binding
  · rw [hu]; exact h.commands
  · rw [hu]; exact h.relock

/-- After a port event of a busy engine it goes on, or its operation returns. -/
theorem rtcSettle_ok {s : State} (h : s.rtc.Sound) (hb : s.rtc.busy = true) (hl : s.rtc.lines.isSome = true) :
    s.rtcSettle.rtc.Ok := by
  unfold State.rtcSettle
  split
  · next hu => exact ⟨⟨h.binding, h.commands, h.relock, h.shcnt⟩, nofun, fun _ => List.isEmpty_iff.1 hu⟩
  · next hu => exact ⟨h, fun _ => ⟨hl, fun hn => hu (List.isEmpty_iff.2 hn)⟩, fun hi => nomatch hb.symm.trans hi⟩

/-- The return of an operation leaves everything but the RTC engine and the history. -/
theorem rtcSettle_frame (s : State) :
    s.rtcSettle.dht = s.dht ∧ s.rtcSettle.modes = s.modes ∧ s.rtcSettle.pulls = s.pulls ∧
      s.rtcSettle.pollBound = s.pollBound := by
  unfold State.rtcSettle
  split <;> exact ⟨rfl, rfl, rfl, rfl⟩

/-- Executing a wire command needs no more of the RTC engine than `Sound`: the micro-program may have nothing left. -/
theorem ExecCase.inv_of_wire {s t : State} {i : Instr} (hx : ExecCase s i t) (hi : isHostOp i = false) (hp : s.PinsOk)
    (hr : s.rtc.Sound) (hd : s.dht.Ok s.pollBound) : t.Inv := by
  cases hx with
  | logged e hh => exact nomatch hi.symm.trans hh
  | query pin var pull diag => exact nomatch hi
  | unit u => exact nomatch hi
  | bind clk dio ce => exact nomatch hi
  | launch ret hh => exact nomatch hi.symm.trans hh
  | refuseTxn r => exact State.inv_iff.2 ⟨⟨hp.modes, hp.pulls⟩, hr.stop, hd⟩
  | openTxn clk dio ce cmd _ hl hne hall =>
    exact State.inv_iff.2 ⟨⟨drive_wf hp.modes .rtc ce true, hp.pulls⟩,
      hr.openTxn ce cmd (hl ▸ rfl) hne hall, hd⟩

theorem stepRtc_inv {s t : State} (h : s.Inv) (hs : stepRtc exec s = .next t) : t.Inv := by
  unfold stepRtc at hs
  split at hs
  · next hb =>
    obtain ⟨hp, hr, hd⟩ := State.inv_iff.1 h
    obtain ⟨m, rest, hu, ⟨i, hi, hx⟩ | ⟨p, rfl, rfl⟩⟩ := rtcMicroStep_cases hs
    · exact hx.inv_of_wire hi ⟨hp.modes, hp.pulls⟩ (hr.toSound.tail hu) hd
    · have hlegal : RtcMicro.legal (.prim p) = true := hr.commands _ (hu ▸ List.mem_cons_self)
      obtain ⟨ed, -, -, eb, -, ebusy, -⟩ := rtcPerform_frame p (s.setRtcUpc rest)
      obtain ⟨fd, fm, fp, fb⟩ := rtcSettle_frame (rtcPerform p (s.setRtcUpc rest))
      have hpins := rtcPerform_pinsOk (s := s.setRtcUpc rest) ⟨hp.modes, hp.pulls⟩ p
      refine State.inv_iff.2 ⟨⟨fm ▸ hpins.modes, fp ▸ hpins.pulls⟩, ?_, ?_⟩
      · have hsound := rtcPerform_sound (s := s.setRtcUpc rest) (hr.toSound.tail hu) hlegal
        have hlines := (congrArg Option.isSome (rtcPerform_lines p (s.setRtcUpc rest))).trans (hr.busy hb).1
        exact rtcSettle_ok hsound (ebusy.trans hb) hlines
      · rw [fd, fb, ed, eb]; exact hd
  · cases hs; exact h

/-! ### The host -/

/-- Executing an instruction keeps the invariant. -/
theorem ExecCase.inv {s t : State} {i : Instr} (hx : ExecCase s i t) (h : s.Inv) : t.Inv := by
  obtain ⟨hp, hr, hd⟩ := State.inv_iff.1 h
  cases hx with
  | logged e => exact h.log e
  | query pin var pull diag => exact h.setDht (hd.start pin _ _ _)
  | unit u hb => exact (h.setDht (hd.setUnit hb _)).log _
  | bind clk dio ce _ hdist => exact h.setRtc (hr.bind hdist)
  | launch ret _ _ hl hprog => exact h.setRtc (hr.launch hl hprog ret)
  | refuseTxn r hi => exact (ExecCase.refuseTxn r hi).inv_of_wire hi hp hr.toSound hd
  | openTxn clk dio ce cmd hi hl hne hall =>
    exact (ExecCase.openTxn clk dio ce cmd hi hl hne hall).inv_of_wire hi hp hr.toSound hd

theorem stepHost_inv {s t : State} (h : s.Inv) (hs : stepHost exec s = .next t) : t.Inv := by
  unfold stepHost at hs
  cases hq : s.pending with
  | nil => rw [hq] at hs; cases hs; exact h
  | cons r rest =>
    have hlog : ((s.setPending rest).log (.issue r)).Inv := (h.setPending rest).log _
    cases hd : decodeHost r with
    | ok i =>
      simp only [hq, hd] at hs
      exact (execCase hs).inv hlog
    | error e =>
      simp only [hq, hd] at hs
      cases hs
      exact hlog.log _

/-! ### The step -/

/-- Settles O11: whoever moves, the parts of the invariant are kept. -/
theorem stepKeepsInvariant : Obligations.StepKeepsInvariant := by
  intro s t h hs
  unfold step at hs
  cases hm : s.mover with
  | host => rw [hm] at hs; exact stepHost_inv h.takeTurn hs
  | dht => rw [hm] at hs; exact stepDht_inv h.takeTurn hs
  | rtc => rw [hm] at hs; exact stepRtc_inv h.takeTurn hs
  | reset => rw [hm] at hs; cases hs; exact resetEvent_inv _

end Sys2Proof.Machine
end

section
/-! PROOF. Who writes the DHT engine's registers (10_state.md R21 to R25, R33): no instruction but `dht.query` writes a
flag or a result, none but `dht.query` and `dht.unit` writes the engine at all, nor does a step of the RTC engine; and
the query leaves `UNIT`. -/

namespace Sys2Proof.Machine

variable {s t : State} {i : Instr}

/-! ### Instructions -/

/-- An instruction other than `dht.query` and `dht.unit` leaves the DHT engine. -/
theorem ExecCase.dht_eq (hx : ExecCase s i t) (hq : ∀ p v l d, i ≠ .dhtQuery p v l d) (hu : ∀ u, i ≠ .dhtUnit u) :
    t.dht = s.dht := by
  cases hx with
  | query pin var pull diag => exact absurd rfl (hq pin var pull diag)
  | unit u => exact absurd rfl (hu u)
  | logged | bind | launch | refuseTxn | openTxn => rfl

/-- A wire command leaves the DHT engine. -/
theorem ExecCase.dht_eq_of_wire (hx : ExecCase s i t) (hi : isHostOp i = false) : t.dht = s.dht :=
  hx.dht_eq (fun _ _ _ _ h => nomatch h ▸ hi) (fun _ h => nomatch h ▸ hi)

/-- An instruction other than `dht.query` leaves the flags and the results. -/
theorem ExecCase.results_eq (hx : ExecCase s i t) (hq : ∀ p v l d, i ≠ .dhtQuery p v l d) :
    t.dht.csv = s.dht.csv ∧ t.dht.srsp = s.dht.srsp ∧ t.dht.hum = s.dht.hum ∧ t.dht.temp = s.dht.temp := by
  cases hx with
  | query pin var pull diag => exact absurd rfl (hq pin var pull diag)
  | unit | logged | bind | launch | refuseTxn | openTxn => exact ⟨rfl, rfl, rfl, rfl⟩

/-- The issue of `dht.query`, refused or admitted, leaves `UNIT`. -/
theorem ExecCase.unit_eq_of_query {p : PinId} {v l d : Nat} (hx : ExecCase s (.dhtQuery p v l d) t) :
    t.dht.unit = s.dht.unit := by
  cases hx with
  | query | logged | launch | refuseTxn | openTxn => rfl

/-! ### Micro-steps -/

theorem dhtFinish_unit (s : State) (status : Status) (elapsed : Option Clock) :
    (s.dhtFinish status elapsed).dht.unit = s.dht.unit := by
  unfold State.dhtFinish
  split <;> rfl

theorem dhtWait_unit (s : State) (v : Level) (n : Nat) (again : Nat → DhtLabel) (next : DhtLabel) :
    (s.dhtWait v n again next).dht.unit = s.dht.unit := by
  unfold State.dhtWait
  dsimp only
  split
  · rfl
  · split
    · exact dhtFinish_unit _ _ _
    · rfl

theorem dhtSampleResponse_unit (s : State) : s.dhtSampleResponse.dht.unit = s.dht.unit := by
  unfold State.dhtSampleResponse
  dsimp only
  split
  · exact dhtFinish_unit _ _ _
  · rfl

/-- A micro-step of the DHT engine leaves `UNIT` (R25). -/
theorem dhtMicroStep_unit (s : State) : (dhtMicroStep s).dht.unit = s.dht.unit := by
  unfold dhtMicroStep
  cases s.dht.upc with
  | presenceLow n | presenceHigh n | bitHigh k n | bitLow k n => exact dhtWait_unit ..
  | sampleResponse => exact dhtSampleResponse_unit s
  | readEnd => exact dhtFinish_unit ((s.now .dht).setDht (s.dht.publish s.nextClock)) _ _
  | readStart | driveLow | holdLow | releaseLine | holdRelease | bitDelay k | bitSample k | emit status elapsed => rfl

/-- A turn of the RTC engine leaves the DHT engine (R111). -/
theorem stepRtc_dht (h : stepRtc exec s = .next t) : t.dht = s.dht := by
  unfold stepRtc at h
  split at h
  · obtain ⟨m, rest, -, ⟨i, hi, hx⟩ | ⟨p, -, rfl⟩⟩ := rtcMicroStep_cases h
    · exact hx.dht_eq_of_wire hi
    · exact (rtcSettle_frame _).1.trans (rtcPerform_frame p _).1
  · cases h; rfl

/-- Settles O17, by the cases of `exec` and the labels of the query. -/
theorem onlyQueryWritesFlags : Obligations.OnlyQueryWritesFlags := by
  refine ⟨fun i s t hq h => ?_, fun p v l d s t h => (execCase h).unit_eq_of_query, dhtMicroStep_unit,
    fun s t h => stepRtc_dht h⟩
  obtain ⟨hc, hr, hh, ht⟩ := (execCase h).results_eq hq
  exact ⟨hc, hr, hh, ht, (execCase h).dht_eq hq⟩

end Sys2Proof.Machine
end

section
/-! PROOF. Which bytes are wire commands (20_memory.md R51, R52; 30_encoding.md R74): the clock registers' commands are
0x80 to 0x8F, the RAM's are the bytes with an index, 0xC0 to 0xFD, each even for a write and odd for a read. -/

namespace Sys2Proof

variable {c : Byte}

/-! ### The two halves of the map -/

/-- The bytes with a RAM index are those of R52, of either direction; 0xFE and 0xFF have none. -/
theorem ramIndexOf_isSome : (ramIndexOf c).isSome ↔ 0xC0 ≤ c.toNat ∧ c.toNat ≤ 0xFD := by
  have := c.isLt
  simp only [ramIndexOf, bits, isRamIndex_eq, Config.ramCommand, Option.isSome_ite, decide_eq_true_eq,
    BitVec.toNat_ofNat]
  omega

/-- The write commands of the clock registers and of `WP`, in the order of R52. -/
def clockCommands : List Byte := [0x80#8, 0x82#8, 0x84#8, 0x86#8, 0x88#8, 0x8A#8, 0x8C#8, 0x8E#8]

theorem mem_clockCommands : c ∈ clockCommands ↔ c.toNat % 2 = 0 ∧ 0x80 ≤ c.toNat ∧ c.toNat ≤ 0x8F := by
  simp only [clockCommands, List.mem_cons, List.not_mem_nil, or_false, BitVec.toNat_eq, BitVec.toNat_ofNat]
  omega

theorem mem_map_readCommand_clockCommands :
    c ∈ clockCommands.map readCommand ↔ c.toNat % 2 = 1 ∧ 0x80 ≤ c.toNat ∧ c.toNat ≤ 0x8F := by
  simp only [clockCommands, readCommand, List.map_cons, List.map_nil, List.mem_cons, List.not_mem_nil, or_false,
    BitVec.toNat_eq, BitVec.toNat_add, BitVec.toNat_ofNat]
  omega

/-! ### The decoders, half by half -/

theorem decodeWireWrite_of_clock (hc : c ∈ clockCommands) (d : Byte) :
    ∃ i : Instr, decodeWireWrite c d = .ok i := by
  fin_cases hc <;> exact ⟨_, rfl⟩

/-- A write with any other byte is one of the RAM, if any. -/
theorem decodeWireWrite_of_not_clock (hc : c ∉ clockCommands) (d : Byte) :
    decodeWireWrite c d = if c.toNat % 2 = 0 then
      (ramIndexOf c).elim (.error .unmappedCommand) fun idx => .ok (.ds1302WriteRam idx d : Instr)
    else .error .unmappedCommand := by
  simp only [clockCommands, List.mem_cons, List.not_mem_nil, or_false, not_or] at hc
  cases hr : ramIndexOf c <;>
    simp [decodeWireWrite, hc, hr, bits, Config.secCommand, Config.minCommand, Config.hourCommand,
      Config.dateCommand, Config.monthCommand, Config.wdayCommand, Config.yearCommand, Config.wpCommand]

theorem decodeWireRead_of_clock (hc : c ∈ clockCommands.map readCommand) :
    ∃ i : Instr, decodeWireRead c = .ok i := by
  fin_cases hc <;> exact ⟨_, rfl⟩

/-- A read with any other byte is one of the RAM, if any. -/
theorem decodeWireRead_of_not_clock (hc : c ∉ clockCommands.map readCommand) :
    decodeWireRead c = if c.toNat % 2 = 1 then
      (ramIndexOf c).elim (.error .unmappedCommand) fun idx => .ok (.ds1302ReadRam idx : Instr)
    else .error .unmappedCommand := by
  simp only [clockCommands, List.map_cons, List.map_nil, List.mem_cons, List.not_mem_nil, or_false, not_or] at hc
  cases hr : ramIndexOf c <;>
    simp [decodeWireRead, hc, hr, bits, Config.secCommand, Config.minCommand, Config.hourCommand,
      Config.dateCommand, Config.monthCommand, Config.wdayCommand, Config.yearCommand, Config.wpCommand]

/-! ### The map -/

/-- The command bytes of R52's map, of either direction. -/
def InWireMap (c : Byte) : Prop := (0x80 ≤ c.toNat ∧ c.toNat ≤ 0x8F) ∨ (0xC0 ≤ c.toNat ∧ c.toNat ≤ 0xFD)

theorem decodeWireWrite_of_mapped (h : c.toNat % 2 = 0 ∧ InWireMap c) (d : Byte) :
    ∃ i : Instr, decodeWireWrite c d = .ok i := by
  obtain ⟨he, hm | hm⟩ := h
  · exact decodeWireWrite_of_clock (mem_clockCommands.2 ⟨he, hm⟩) d
  · have hc : c ∉ clockCommands := fun hc => by have := mem_clockCommands.1 hc; omega
    obtain ⟨idx, hr⟩ := Option.isSome_iff_exists.1 (ramIndexOf_isSome.2 hm)
    exact ⟨.ds1302WriteRam idx d, by simp [decodeWireWrite_of_not_clock hc, he, hr]⟩

theorem decodeWireWrite_of_unmapped (h : ¬(c.toNat % 2 = 0 ∧ InWireMap c)) (d : Byte) :
    decodeWireWrite (Pin := PinId) c d = .error .unmappedCommand := by
  have hc : c ∉ clockCommands := fun hc => h ((mem_clockCommands.1 hc).imp_right .inl)
  rw [decodeWireWrite_of_not_clock hc]
  split_ifs with he
  · have hr : ramIndexOf c = none := Option.not_isSome_iff_eq_none.1 fun hr => h ⟨he, .inr (ramIndexOf_isSome.1 hr)⟩
    rw [hr]; rfl
  · rfl

theorem decodeWireRead_of_mapped (h : c.toNat % 2 = 1 ∧ InWireMap c) : ∃ i : Instr, decodeWireRead c = .ok i := by
  obtain ⟨ho, hm | hm⟩ := h
  · exact decodeWireRead_of_clock (mem_map_readCommand_clockCommands.2 ⟨ho, hm⟩)
  · have hc : c ∉ clockCommands.map readCommand := fun hc => by have := mem_map_readCommand_clockCommands.1 hc; omega
    obtain ⟨idx, hr⟩ := Option.isSome_iff_exists.1 (ramIndexOf_isSome.2 hm)
    exact ⟨.ds1302ReadRam idx, by simp [decodeWireRead_of_not_clock hc, ho, hr]⟩

theorem decodeWireRead_of_unmapped (h : ¬(c.toNat % 2 = 1 ∧ InWireMap c)) :
    decodeWireRead (Pin := PinId) c = .error .unmappedCommand := by
  have hc : c ∉ clockCommands.map readCommand := fun hc =>
    h ((mem_map_readCommand_clockCommands.1 hc).imp_right .inl)
  rw [decodeWireRead_of_not_clock hc]
  split_ifs with ho
  · have hr : ramIndexOf c = none := Option.not_isSome_iff_eq_none.1 fun hr => h ⟨ho, .inr (ramIndexOf_isSome.1 hr)⟩
    rw [hr]; rfl
  · rfl

/-- What a decoder accepts when `P` and rejects with `e` otherwise, it accepts exactly when `P`, and rejects with `e`
whenever it does not accept. -/
theorem accepts_iff {r : Except DecodeError Instr} {e : DecodeError} {P : Prop} (hp : P → ∃ i, r = .ok i)
    (hn : ¬P → r = .error e) : ((∃ i, r = .ok i) ↔ P) ∧ ((∀ i, r ≠ .ok i) → r = .error e) :=
  ⟨⟨fun ⟨_, hi⟩ => by_contra fun h => by simp [hn h] at hi, hp⟩,
    fun h => hn fun h' => (hp h').elim h⟩

/-- Settles O4, by the two halves of the map: the clock registers' commands and the RAM's. -/
theorem wireCommandMap : Obligations.WireCommandMap := by
  intro c d
  obtain ⟨hw, hw'⟩ := accepts_iff (fun h => decodeWireWrite_of_mapped h d) (fun h => decodeWireWrite_of_unmapped h d)
  obtain ⟨hr, hr'⟩ := accepts_iff decodeWireRead_of_mapped (decodeWireRead_of_unmapped (c := c))
  exact ⟨hw, hr, hw', hr'⟩

end Sys2Proof
end

section
/-! PROOF. The reference peers' bit order (20_memory.md R55, R56, R62, R63): eight levels and the byte they are, on the
wire of the DS1302 and in the frame of the sensor; what the DS1302 makes of one clock pulse, of a byte shifted out and
of a byte shifted in; and whole transactions. -/

namespace Sys2Proof.Machine

/-! ### A byte and its eight levels -/

/-- The levels of a byte, bit 0 first (R56). -/
def levelsOf (b : Byte) : List Level := (List.range 8).map b.getLsbD

@[simp] theorem levelsOf_length (b : Byte) : (levelsOf b).length = 8 := rfl

/-- The number whose bit `i` is the `i`-th level of the list (R56). -/
def natOfLevels (l : List Level) : Nat := l.foldr (fun b acc => b.toNat + 2 * acc) 0

theorem natOfLevels_cons (v : Level) (l : List Level) : natOfLevels (v :: l) = v.toNat + 2 * natOfLevels l := rfl

theorem byteOfLevels_eq (l : List Level) : byteOfLevels l = BitVec.ofNat 8 (natOfLevels l) := rfl

theorem natOfLevels_testBit (l : List Level) (i : Nat) : (natOfLevels l).testBit i = l.getD i false := by
  induction l generalizing i with
  | nil => simp [natOfLevels]
  | cons v l ih =>
    cases i with
    | zero => cases v <;> simp [natOfLevels_cons]
    | succ i =>
      have hhalf : (v.toNat + 2 * natOfLevels l) / 2 = natOfLevels l := by have := v.toNat_lt; omega
      simpa [natOfLevels_cons, Nat.testBit_succ, hhalf] using ih i

/-- Bit `i` of the byte of a list of levels is the `i`-th level (R56). -/
theorem byteOfLevels_getLsbD (l : List Level) {i : Nat} (hi : i < 8) :
    (byteOfLevels l).getLsbD i = l.getD i false := by
  rw [byteOfLevels_eq, BitVec.getLsbD_ofNat, natOfLevels_testBit, decide_eq_true hi, Bool.true_and]

@[simp] theorem byteOfLevels_levelsOf (b : Byte) : byteOfLevels (levelsOf b) = b :=
  BitVec.eq_of_getLsbD_eq fun i hi => by rw [byteOfLevels_getLsbD _ hi]; simp [levelsOf, hi]

/-- Eight levels are those of their byte. -/
theorem levelsOf_byteOfLevels {l : List Level} (h : l.length = 8) : levelsOf (byteOfLevels l) = l := by
  refine List.ext_getElem (by simp [h]) fun i _ hi => ?_
  simp only [levelsOf, List.getElem_map, List.getElem_range]
  rw [byteOfLevels_getLsbD _ (h ▸ hi), List.getD_eq_getElem _ _ hi]

/-- The byte of eight samples is the byte of these levels. -/
theorem sampledByte_eq_byteOfLevels (v : Nat → Level) : sampledByte v = byteOfLevels ((List.range 8).map v) := by
  refine congrArg (BitVec.ofNat 8) ?_
  show _ = natOfLevels _
  simp only [natOfLevels, range_eight, List.map_cons, List.map_nil, List.foldr_cons, List.foldr_nil]
  omega

/-- Samples that answer the bits of a byte make that byte. -/
theorem sampledByte_of_bits {v : Nat → Level} {b : Byte} (h : ∀ i, i < 8 → v i = b.getLsbD i) : sampledByte v = b := by
  rw [sampledByte_eq_byteOfLevels, List.map_congr_left fun i hi => h i (List.mem_range.1 hi)]
  exact byteOfLevels_levelsOf b

/-! ### The events of a bit -/

/-- The three events of a bit shifted out (R162). -/
def bitOutEvents (clk dio : PinId) (v : Level) : List (Event PinId) := [.drive dio v, .drive clk true, .drive clk false]

theorem shiftOutEvents_eq (clk dio : PinId) (b : Byte) :
    shiftOutEvents clk dio b = (levelsOf b).flatMap (bitOutEvents clk dio) := rfl

/-- The three events of a bit shifted in (R163). -/
def bitInEvents (clk dio : PinId) (v : Level) : List (Event PinId) :=
  [.sample dio v, .drive clk true, .drive clk false]

/-! ### When the reference DS1302 is in the data phase of a read -/

theorem reading_of_short {d : Ds1302} (h : d.shifted.length < 8) : d.reading = false := by
  simp [Ds1302.reading, h]

theorem reading_of_even {d : Ds1302} (h : d.command.getLsbD 0 = false) : d.reading = false := by
  rw [Ds1302.reading, h, Bool.and_false]

/-- The command is the first byte clocked in. -/
theorem command_of_shifted {d : Ds1302} {c : Byte} {l : List Level} (h : d.shifted = levelsOf c ++ l) :
    d.command = c := by
  rw [Ds1302.command, h, List.take_left' (levelsOf_length c), byteOfLevels_levelsOf]

theorem reading_of_odd {d : Ds1302} {c : Byte} (h : d.shifted = levelsOf c) (hc : c.getLsbD 0 = true) :
    d.reading = true := by
  have hcmd : d.command = c := command_of_shifted (l := []) (by simpa using h)
  simp [Ds1302.reading, hcmd, hc, h]

/-! ### What the reference DS1302 makes of the events of a transaction -/

section
variable {clk dio ce : PinId} (hcd : clk ≠ dio) (hcc : clk ≠ ce) (hdc : dio ≠ ce)

/-- Rising `CE` starts the count again. -/
theorem observe_ce_rise (d : Ds1302) :
    d.observe clk dio ce (.drive ce true) = { d with shifted := [], sampled := 0 } := by
  simp [Ds1302.observe]

theorem observe_ce_fall (d : Ds1302) : d.observe clk dio ce (.drive ce false) = d.commit := by
  simp [Ds1302.observe]

theorem observe_release (d : Ds1302) (p : PinId) (up : Bool) : d.observe clk dio ce (.release p up) = d := rfl

include hcd hcc hdc

/-- Outside the data phase of a read the peer takes a bit that is shifted out. -/
theorem observe_bitOut {d : Ds1302} (h : d.reading = false) (v : Level) :
    (bitOutEvents clk dio v).foldl (Ds1302.observe clk dio ce) d =
      { d with line := v, shifted := d.shifted ++ [v] } := by
  have h' : Ds1302.reading { d with line := v } = false := h
  simp [bitOutEvents, Ds1302.observe, hcd, hcc, hdc, h']

/-- The peer takes the bits that are shifted out, in their order, as long as they begin no read's data phase. -/
theorem observe_bitsOut (l : List Level) (d : Ds1302)
    (h : ∀ k, k < l.length → Ds1302.reading { d with shifted := d.shifted ++ l.take k } = false) :
    (l.flatMap (bitOutEvents clk dio)).foldl (Ds1302.observe clk dio ce) d =
      { d with line := l.getLastD d.line, shifted := d.shifted ++ l } := by
  induction l generalizing d with
  | nil => simp
  | cons v l ih =>
    have hd : d.reading = false := by simpa using h 0 (by simp)
    rw [List.flatMap_cons, List.foldl_append, observe_bitOut hcd hcc hdc hd, ih, List.getLastD_cons]
    · simp only [List.append_assoc, List.singleton_append]
    · intro k hk
      have := h (k + 1) (by simpa using hk)
      simpa [Ds1302.reading, Ds1302.command] using this

/-- After `CE` rose, the eight bits of a byte are taken as the command. -/
theorem observe_command (d : Ds1302) (c : Byte) :
    ([Event.drive ce true] ++ shiftOutEvents clk dio c).foldl (Ds1302.observe clk dio ce) d =
      ⟨d.dev, (levelsOf c).getLastD d.line, levelsOf c, 0⟩ := by
  rw [List.foldl_append, List.foldl_cons, List.foldl_nil, observe_ce_rise, shiftOutEvents_eq,
    observe_bitsOut hcd hcc hdc]
  · simp
  · intro k hk
    exact reading_of_short (by simpa using hk)

/-- After an even command the eight bits of a byte are taken as data. -/
theorem observe_data {d : Ds1302} {c : Byte} (hd : d.shifted = levelsOf c) (hc : c.getLsbD 0 = false) (b : Byte) :
    (shiftOutEvents clk dio b).foldl (Ds1302.observe clk dio ce) d =
      { d with line := (levelsOf b).getLastD d.line, shifted := levelsOf c ++ levelsOf b } := by
  rw [shiftOutEvents_eq, observe_bitsOut hcd hcc hdc, hd]
  intro k _
  exact reading_of_even (by rw [command_of_shifted (by rw [hd]), hc])

omit hdc in
/-- In the data phase of a read a bit that is shifted in is one more sample, and nothing else. -/
theorem observe_bitIn {d : Ds1302} (h : d.reading = true) (v : Level) :
    (bitInEvents clk dio v).foldl (Ds1302.observe clk dio ce) d = { d with sampled := d.sampled + 1 } := by
  have h' : Ds1302.reading { d with sampled := d.sampled + 1 } = true := h
  simp [bitInEvents, Ds1302.observe, hcd, hcc, h']

omit hdc in
theorem observe_bitsIn (v : Nat → Level) {d : Ds1302} (h : d.reading = true) (n : Nat) :
    ((List.range n).flatMap fun i => bitInEvents clk dio (v i)).foldl (Ds1302.observe clk dio ce) d =
      { d with sampled := d.sampled + n } := by
  induction n with
  | zero => rfl
  | succ n ih =>
    have h' : Ds1302.reading { d with sampled := d.sampled + n } = true := h
    rw [List.range_succ, List.flatMap_append, List.foldl_append, ih, List.flatMap_singleton,
      observe_bitIn hcd hcc h', Nat.add_assoc]

end

/-! ### A whole write -/

/-- The fall of `CE` after the 16 bits of a write makes the write take effect (R62). -/
theorem commit_write {d : Ds1302} {c b : Byte} (h : d.shifted = levelsOf c ++ levelsOf b) (hc : c.getLsbD 0 = false) :
    d.commit.dev = Ds1302.store d.dev c.toNat b := by
  have hcmd : d.command = c := command_of_shifted h
  have hr : d.reading = false := reading_of_even (by rw [hcmd, hc])
  simp [Ds1302.commit, hr, hcmd, h, List.drop_left' (levelsOf_length c)]

/-- The effect of a write, with R52's command byte of `WP` (R62). -/
theorem store_eq (dev : Memory) (c b : Byte) :
    Ds1302.store dev c.toNat b =
      if c = 0x8E#8 then dev.write c.toNat b else if (dev.read 0x8E).getLsbD 7 then dev else dev.write c.toNat b := by
  simp only [BitVec.toNat_eq]; rfl

/-- Settles O50: the peer takes the command, then the data, and the fall of `CE` stores it. -/
theorem peerHearsWrites : Obligations.PeerHearsWrites := by
  intro clk dio ce c b d hcd hcc hdc hc
  rw [← store_eq, writeEvents, List.foldl_append, List.foldl_append, observe_command hcd hcc hdc,
    observe_data hcd hcc hdc rfl hc, List.foldl_cons, List.foldl_nil, observe_ce_fall]
  exact commit_write rfl hc

/-! ### A whole read -/

theorem commit_read {d : Ds1302} (h : d.reading = true) : d.commit = d := by simp [Ds1302.commit, h]

/-- Of a read, the events up to the release of the data line, and those of the first `n` bits shifted in. -/
def readPrefix (clk dio ce : PinId) (c : Byte) (v : Nat → Level) (n : Nat) : List (Event PinId) :=
  [.drive ce true] ++ shiftOutEvents clk dio c ++ [.release dio false] ++
    (List.range n).flatMap fun i => bitInEvents clk dio (v i)

theorem readEvents_eq (clk dio ce : PinId) (c : Byte) (v : Nat → Level) :
    readEvents clk dio ce c v = readPrefix clk dio ce c v 8 ++ [.drive ce false] := rfl

/-- The first `26 + 3 * n` events of a read, `n` at most 8. -/
theorem readEvents_take (clk dio ce : PinId) (c : Byte) (v : Nat → Level) {n : Nat} (hn : n ≤ 8) :
    (readEvents clk dio ce c v).take (26 + 3 * n) = readPrefix clk dio ce c v n := by
  have hrange : List.range n <+: List.range 8 := by
    rw [← Nat.min_eq_left hn, ← List.take_range]; exact List.take_prefix n _
  have hpre : readPrefix clk dio ce c v n <+: readPrefix clk dio ce c v 8 :=
    (List.prefix_append_right_inj _).2 (hrange.flatMap _)
  have hlen : (readPrefix clk dio ce c v n).length = 26 + 3 * n := by
    simp [readPrefix, shiftOutEvents, bitInEvents]; omega
  rw [readEvents_eq, ← hlen, ← List.prefix_iff_eq_take.1 (hpre.trans (List.prefix_append _ _))]

/-- What the peer has heard then: the command, and `n` samples. -/
theorem observe_readPrefix {clk dio ce : PinId} (hcd : clk ≠ dio) (hcc : clk ≠ ce) (hdc : dio ≠ ce) {c : Byte}
    (hc : c.getLsbD 0 = true) (v : Nat → Level) (d : Ds1302) (n : Nat) :
    (readPrefix clk dio ce c v n).foldl (Ds1302.observe clk dio ce) d =
      ⟨d.dev, (levelsOf c).getLastD d.line, levelsOf c, n⟩ := by
  rw [readPrefix, List.foldl_append, List.foldl_append, observe_command hcd hcc hdc, List.foldl_cons, List.foldl_nil,
    observe_release, observe_bitsIn hcd hcc v (reading_of_odd rfl hc), Nat.zero_add]

/-- The answer then is bit `n` of the addressed byte (R62). -/
theorem answer_of_command (dev : Memory) (v : Level) (c : Byte) (n : Nat) :
    Ds1302.answer ⟨dev, v, levelsOf c, n⟩ = (dev.read (c.toNat - 1)).getLsbD n := by
  rw [Ds1302.answer, command_of_shifted (l := []) (List.append_nil _).symm]

/-- Settles O51: the peer holds the command through the samples, and only counts them. -/
theorem peerAnswersReads : Obligations.PeerAnswersReads := by
  intro clk dio ce c d v hcd hcc hdc hc heard
  have hheard {n : Nat} (hn : n ≤ 8) : heard (26 + 3 * n) = ⟨d.dev, (levelsOf c).getLastD d.line, levelsOf c, n⟩ := by
    rw [← observe_readPrefix hcd hcc hdc hc v d n, ← readEvents_take clk dio ce c v hn]
  have hanswer (i : Nat) (hi : i < 8) : (heard (26 + 3 * i)).answer = (d.dev.read (c.toNat - 1)).getLsbD i := by
    rw [hheard hi.le, answer_of_command]
  refine ⟨hanswer, fun hv => sampledByte_of_bits fun i hi => (hv i hi).trans (hanswer i hi), ?_⟩
  have hend : heard 51 = (heard (26 + 3 * 8)).observe clk dio ce (.drive ce false) := rfl
  rw [hend, hheard le_rfl, observe_ce_fall, commit_read (reading_of_odd rfl hc)]

/-! ### The reference sensor -/

/-- The sensor sends a byte most significant bit first (R55). -/
theorem byteBits_eq_reverse (b : Byte) : byteBits b = (levelsOf b).reverse := rfl

/-- The frame's bits of byte `j`, in their order. -/
def frameBits (f : Frame) (j : Nat) : List Level := (List.range 8).map fun i => f.getLsbD (8 * j + i)

/-- A byte of the frame holds the frame's bits most significant first (R77). -/
theorem ofNat_frameByte (f : Frame) (j : Nat) :
    BitVec.ofNat 8 (frameByte f j) = byteOfLevels (frameBits f j).reverse := by
  refine congrArg (BitVec.ofNat 8) ?_
  show _ = natOfLevels _
  unfold frameByte frameBits natOfLevels
  simp only [range_eight, List.map_cons, List.map_nil, List.reverse_cons, List.reverse_nil, List.nil_append,
    List.cons_append, List.foldr_cons, List.foldr_nil, List.foldl_cons, List.foldl_nil]
  omega

/-- The sensor sends a byte's bits in the order in which the frame holds them (R55, R77). -/
theorem byteBits_of_frameByte {f : Frame} {j : Nat} {b : Byte} (h : frameByte f j = b.toNat) :
    byteBits b = frameBits f j := by
  have hb : b = byteOfLevels (frameBits f j).reverse := by
    rw [← ofNat_frameByte, h, BitVec.ofNat_toNat, BitVec.setWidth_eq]
  rw [hb, byteBits_eq_reverse, levelsOf_byteOfLevels (by simp [frameBits]), List.reverse_reverse]

/-- With waits of one sample, a frame's answers are its bit cells after the response and the two presence levels. -/
theorem frameAnswers_zero (f : Frame) :
    frameAnswers f (fun _ => 0) = [false, true, false] ++ ((List.range 40).map f.getLsbD).flatMap bitCellAnswers := by
  rw [List.flatMap_map]; rfl

/-- The 40 bits of a frame, byte by byte. -/
theorem frame_bits_eq (f : Frame) : (List.range 40).map f.getLsbD = (List.range 5).flatMap (frameBits f) := rfl

/-- Settles O52: the bits of the five bytes, as the sensor sends them, are the frame's in their order. -/
theorem sensorSendsFrame : Obligations.SensorSendsFrame := by
  intro f b₀ b₁ b₂ b₃ b₄ h
  obtain ⟨h₀, h₁, h₂, h₃, h₄⟩ := FrameBytes.mk.inj ((pack_eq f).symm.trans h)
  have hbits : [b₀, b₁, b₂, b₃, b₄].flatMap byteBits = (List.range 40).map f.getLsbD := by
    simp only [List.flatMap_cons, List.flatMap_nil, byteBits_of_frameByte h₀, byteBits_of_frameByte h₁,
      byteBits_of_frameByte h₂, byteBits_of_frameByte h₃, byteBits_of_frameByte h₄]
    exact (frame_bits_eq f).symm
  rw [frameAnswers_zero, ← hbits]; rfl

end Sys2Proof.Machine
end

section
/-! PROOF. The decoder and the encoder are inverse (30_encoding.md R70, R72; 20_memory.md R52): what each half of the
decoder accepts, read back as the code that it came from. -/

namespace Sys2Proof

/-! ### Host requests -/

/-- A request spells an instruction when its opcode selects an operation and its operands have that operation's
kinds. -/
theorem decodeHost_eq_ok {r : Request PinId} {i : Instr} :
    decodeHost r = .ok i ↔ ∃ o, HostOp.ofOpcode r.op = some o ∧ o.instr r.args = some i := by
  unfold decodeHost
  cases HostOp.ofOpcode r.op with
  | none => simp
  | some o => cases h : o.instr r.args <;> simp [h]

/-- The code of an operation decodes to the instruction that its operands make. -/
theorem decode_code {o : HostOp} {args : List (Operand PinId)} {i : Instr} (h : o.instr args = some i) :
    decode (o.code args) = .ok i :=
  decodeHost_eq_ok.2 ⟨o, ofOpcode_opcode o, h⟩

theorem encode_of_decodeHost {r : Request PinId} {i : Instr} (h : decodeHost r = .ok i) : encode i = .host r := by
  obtain ⟨o, ho, hi⟩ := decodeHost_eq_ok.1 h
  rw [encode_of_instr hi, HostOp.code, opcode_of_ofOpcode ho]

/-! ### Wire commands -/

section
variable {c : Byte} {idx : Nat} (h : ramIndexOf c = some idx)
include h

/-- A byte with a RAM index is that RAM byte's write command, or one above it (R52). -/
theorem toNat_of_ramIndexOf : idx ≤ 30 ∧ c.toNat = 0xC0 + 2 * idx + c.toNat % 2 := by
  have := c.isLt
  simp only [ramIndexOf, bits, isRamIndex_eq, Config.ramCommand, Option.ite_none_right_eq_some, Option.some.injEq,
    decide_eq_true_eq, BitVec.toNat_ofNat] at h
  omega

theorem ramWriteCommand_of_ramIndexOf (he : c.toNat % 2 = 0) : ramWriteCommand idx = c := by
  obtain ⟨hle, hc⟩ := toNat_of_ramIndexOf h
  refine BitVec.eq_of_toNat_eq ?_
  simp only [ramWriteCommand, Config.ramCommand, BitVec.toNat_ofNat]
  omega

theorem readCommand_of_ramIndexOf (ho : c.toNat % 2 = 1) : readCommand (ramWriteCommand idx) = c := by
  obtain ⟨hle, hc⟩ := toNat_of_ramIndexOf h
  refine BitVec.eq_of_toNat_eq ?_
  simp only [readCommand, ramWriteCommand, Config.ramCommand, BitVec.toNat_add, BitVec.toNat_ofNat]
  omega

end

theorem encode_of_decodeWireWrite {c d : Byte} {i : Instr} (h : decodeWireWrite c d = .ok i) :
    encode i = .wireWrite c d := by
  by_cases hc : c ∈ clockCommands
  · fin_cases hc <;> cases h <;> rfl
  · rw [decodeWireWrite_of_not_clock hc] at h
    split_ifs at h with he
    cases hr : ramIndexOf c with
    | none => simp [hr] at h
    | some idx =>
      rw [hr] at h; cases h
      rw [encode, ramWriteCommand_of_ramIndexOf hr he]

theorem encode_of_decodeWireRead {c : Byte} {i : Instr} (h : decodeWireRead c = .ok i) : encode i = .wireRead c := by
  by_cases hc : c ∈ clockCommands.map readCommand
  · fin_cases hc <;> cases h <;> rfl
  · rw [decodeWireRead_of_not_clock hc] at h
    split_ifs at h with ho
    cases hr : ramIndexOf c with
    | none => simp [hr] at h
    | some idx =>
      rw [hr] at h; cases h
      rw [encode, readCommand_of_ramIndexOf hr ho]

/-! ### The two inverses -/

/-- Settles O1: a host operation's opcode selects the operation, a clock register's command is tested by name, and a
RAM command gives its index back when the index is in range. -/
theorem decodeOfEncode : Obligations.DecodeOfEncode := by
  intro i hw
  cases i with
  | dhtQuery | dhtUnit | dhtRdh | dhtRdt | dhtRdcs | dhtRdsr | rtcBind | rtcGetsec | rtcGetmin | rtcGethour | rtcGetday
  | rtcGetmonth | rtcGetwday | rtcGetyear | rtcSetsec | rtcSetmin | rtcSethour | rtcSetday | rtcSetmonth | rtcSetwday
  | rtcSetyear | rtcSetdt | rtcStart | rtcPause | rtcRdram | rtcWrram => exact decode_code rfl
  | ds1302WriteSec | ds1302WriteMin | ds1302WriteHour | ds1302WriteDate | ds1302WriteMonth | ds1302WriteWday
  | ds1302WriteYear | ds1302WriteWp | ds1302ReadSec | ds1302ReadMin | ds1302ReadHour | ds1302ReadDate | ds1302ReadMonth
  | ds1302ReadWday | ds1302ReadYear | ds1302ReadWp => rfl
  | ds1302WriteRam idx d => exact (Laws.Encoding.ram_commands idx d hw).1
  | ds1302ReadRam idx => exact (Laws.Encoding.ram_commands idx 0#8 hw).2

/-- Settles O2: each kind of code has one decoder, and what that decoder accepts is encoded as the code it was given. -/
theorem encodeOfDecode : Obligations.EncodeOfDecode := by
  intro c i h
  cases c with
  | host r => exact encode_of_decodeHost h
  | wireWrite cmd dat => exact encode_of_decodeWireWrite h
  | wireRead cmd => exact encode_of_decodeWireRead h

/-- Settles O5: the words are the opcodes of R72 and the command bytes of R52 in binary. -/
theorem specWordsDecode : Obligations.SpecWordsDecode :=
  ⟨decode_code (o := .dhtQuery) rfl, decode_code (o := .rtcBind) rfl, decode_code (o := .rtcSetyear) rfl,
    decode_code (o := .rtcWrram) rfl, rfl, rfl, (Laws.Encoding.ram_commands 5 0xA7#8 rfl).1⟩

end Sys2Proof
end

section
/-! PROOF. Requests that spell no operation (30_encoding.md R71, R73): the host's move records the issue and the reason
and nothing else (60_exceptions.md R236). -/

namespace Sys2Proof.Machine

/-- The host's move with a request that does not decode. -/
theorem stepHost_of_decodeHost_error {s : State} {r : Request PinId} {rest : List (Request PinId)} {e : DecodeError}
    (hp : s.pending = r :: rest) (hd : decodeHost r = .error e) :
    stepHost exec s = .next (((s.setPending rest).log (.issue r)).refuse (decodeRefusal e)) := by
  simp only [stepHost, hp, hd]

/-! ### Reserved opcodes -/

/-- The reserved opcodes of R73. -/
def IsReserved (n : Nat) : Prop :=
  n = 0x00 ∨ (0x07 ≤ n ∧ n ≤ 0x0F) ∨ (0x18 ≤ n ∧ n ≤ 0x20) ∨ (0x28 ≤ n ∧ n ≤ 0x2F) ∨ (0x33 ≤ n ∧ n ≤ 0x3F) ∨
    (0x42 ≤ n ∧ n ≤ 0xFF)

/-- No operation of R72 has a reserved opcode. -/
theorem opcode_not_reserved (o : HostOp) : ¬IsReserved o.opcode.toNat := by
  cases o <;> simp [IsReserved, HostOp.opcode]

theorem decodeHost_badOpcode {r : Request PinId} (h : IsReserved r.op.toNat) : decodeHost r = .error .badOpcode := by
  have hop : HostOp.ofOpcode r.op = none := by
    refine Option.eq_none_iff_forall_ne_some.2 fun o ho => opcode_not_reserved o ?_
    rwa [opcode_of_ofOpcode ho]
  simp only [decodeHost, hop]

/-- Settles O3: a reserved opcode selects no operation, so the request does not decode. -/
theorem reservedOpcodesRefused : Obligations.ReservedOpcodesRefused :=
  fun _ _ _ hp hr => stepHost_of_decodeHost_error hp (decodeHost_badOpcode hr)

/-! ### Operands of the wrong number or kinds -/

/-- The table of R72 is that of the decoder. -/
theorem operandShapes_eq : operandShapes = HostOp.all.map fun o => (o.opcode.toNat, o.shape) := rfl

theorem ofOpcode_of_mem_operandShapes {op : Byte} {kinds : List OperandKind} (h : (op.toNat, kinds) ∈ operandShapes) :
    ∃ o, HostOp.ofOpcode op = some o ∧ o.shape = kinds := by
  rw [operandShapes_eq, List.mem_map] at h
  obtain ⟨o, -, ho⟩ := h
  obtain ⟨hop, hshape⟩ := Prod.mk.inj ho
  exact ⟨o, BitVec.eq_of_toNat_eq hop ▸ ofOpcode_opcode o, hshape⟩

/-- Settles O53: an operation of R72 accepts operands of its own kinds only. -/
theorem wrongOperandsRefused : Obligations.WrongOperandsRefused := by
  intro s r rest kinds hp hmem hne
  obtain ⟨o, ho, rfl⟩ := ofOpcode_of_mem_operandShapes hmem
  exact stepHost_of_decodeHost_error hp (decodeHost_operandShape ho hne)

end Sys2Proof.Machine
end

section
/-! PROOF. Wire commands (30_encoding.md R74): where the RTC engine fetches one, and what executing one does when its
transaction cannot begin (42_rtc_transactions.md R165, R166; log 3, log 18). -/

namespace Sys2Proof.Machine

/-! ### Where a wire command is fetched -/

@[simp] theorem takeTurn_rtc (s : State) : s.takeTurn.rtc = s.rtc := rfl

/-- A busy RTC engine whose turn it is makes the step. -/
theorem step_of_mover_rtc {s : State} (hm : s.mover = .rtc) (hb : s.rtc.busy = true) :
    step s = rtcMicroStep exec s.takeTurn := by
  rw [step, hm, moveOf, stepRtc, takeTurn_rtc, if_pos hb]

section
variable {s : State} {cmd : Byte} {rest : List (RtcMicro PinId)} {i : Instr}

theorem rtcMicroStep_txnWrite {src : ByteSource} (hu : s.rtc.upc = .txnWrite cmd src :: rest)
    (hd : decode (.wireWrite cmd (src.value s.rtc.raw)) = .ok i) : rtcMicroStep exec s = exec i (s.setRtcUpc rest) := by
  rw [decode] at hd
  simp only [rtcMicroStep, hu, hd, rtcFetch]

theorem rtcMicroStep_txnRead (hu : s.rtc.upc = .txnRead cmd :: rest) (hd : decode (.wireRead cmd) = .ok i) :
    rtcMicroStep exec s = exec i (s.setRtcUpc rest) := by
  rw [decode] at hd
  simp only [rtcMicroStep, hu, hd, rtcFetch]

end

/-- Settles O7: the step is the engine's micro-step, which fetches the transaction's command. -/
theorem stepRunsWireCommand : Obligations.StepRunsWireCommand :=
  ⟨fun _ _ _ _ _ hm hb hu hd => (step_of_mover_rtc hm hb).trans (rtcMicroStep_txnWrite hu hd),
    fun _ _ _ _ hm hb hu hd => (step_of_mover_rtc hm hb).trans (rtcMicroStep_txnRead hu hd)⟩

/-! ### Wire commands without a transaction -/

/-- Executing a wire command is the first step of a transaction; a RAM index is its only operand that can be outside
its type. -/
theorem exec_wire {i : Instr} (hi : isHostOp i = false) :
    ∃ cmd body, ∀ s, exec i s = wireTransaction (if wellFormed i then none else some .ramIndex) cmd body s := by
  cases i with
  | dhtQuery | dhtUnit | dhtRdh | dhtRdt | dhtRdcs | dhtRdsr | rtcBind | rtcGetsec | rtcGetmin | rtcGethour | rtcGetday
  | rtcGetmonth | rtcGetwday | rtcGetyear | rtcSetsec | rtcSetmin | rtcSethour | rtcSetday | rtcSetmonth | rtcSetwday
  | rtcSetyear | rtcSetdt | rtcStart | rtcPause | rtcRdram | rtcWrram => cases hi
  | ds1302WriteSec | ds1302WriteMin | ds1302WriteHour | ds1302WriteDate | ds1302WriteMonth | ds1302WriteWday
  | ds1302WriteYear | ds1302WriteWp | ds1302WriteRam | ds1302ReadSec | ds1302ReadMin | ds1302ReadHour | ds1302ReadDate
  | ds1302ReadMonth | ds1302ReadWday | ds1302ReadYear | ds1302ReadWp | ds1302ReadRam => exact ⟨_, _, fun _ => rfl⟩

theorem wireTransaction_unbound {s : State} (hl : s.rtc.lines = none) (cmd : Byte)
    (body : PinId → PinId → PinId → List (RtcPrim PinId)) :
    wireTransaction none cmd body s = .next (s.refuseTxn .unbound) := by
  simp only [wireTransaction, hl]

/-- Settles O40: the operand check comes first, then that of the lines. -/
theorem wireCommandsNeedLines : Obligations.WireCommandsNeedLines := by
  intro i s hi
  obtain ⟨cmd, body, hx⟩ := exec_wire hi
  refine ⟨fun hw hl => ?_, fun hw => ?_⟩
  · rw [hx, if_pos hw, wireTransaction_unbound hl]; rfl
  · rw [hx, if_neg hw]; rfl

end Sys2Proof.Machine
end

section
/-! PROOF. The bytes of a DHT frame, bit by bit (30_encoding.md R77). -/

namespace Sys2Proof.Machine

theorem frameByte_lt (f : Frame) (j : Nat) : frameByte f j < 256 := by
  have hbit (i : Nat) : (f.getLsbD (8 * j + i)).toNat ≤ 1 := Bool.toNat_le _
  have := hbit 0; have := hbit 1; have := hbit 2; have := hbit 3
  have := hbit 4; have := hbit 5; have := hbit 6; have := hbit 7
  simp only [frameByte, range_eight, List.foldl_cons, List.foldl_nil]
  omega

/-- A byte of the frame is the byte of the frame's bits, most significant first. -/
theorem frameByte_eq_toNat (f : Frame) (j : Nat) : frameByte f j = (byteOfLevels (frameBits f j).reverse).toNat := by
  rw [← ofNat_frameByte, BitVec.toNat_ofNat, Nat.mod_eq_of_lt (frameByte_lt f j)]

theorem frameBits_reverse_getD (f : Frame) (j : Nat) {i : Nat} (hi : i < 8) :
    (frameBits f j).reverse.getD (7 - i) false = f.getLsbD (8 * j + i) := by
  interval_cases i <;> rfl

/-- Settles O30: the byte's levels are the frame's bits in reverse. -/
theorem frameByteBits : Obligations.FrameByteBits := by
  intro f j _
  refine ⟨frameByte_lt f j, fun i hi => ?_⟩
  rw [frameByte_eq_toNat, BitVec.testBit_toNat, byteOfLevels_getLsbD _ (by omega), frameBits_reverse_getD f j hi]

end Sys2Proof.Machine
end

section
/-! PROOF. What the moves do not see (40_port_primitives.md R110, R111): a change of the state that no port primitive
sees, and the engine that moves neither, can as well be made after the move. An RTC engine in another's place is such a
change for the DHT engine, a DHT engine in another's place for the RTC engine, and for every move the history with
other entries before its own. -/

namespace Sys2Proof.Machine

/-! ### Changes that an engine does not see -/

/-- The port primitives do not see the change `g`: it leaves what they read, and can be made before or after what they
write. -/
structure PortBlind (g : State → State) : Prop where
  modes : ∀ s, (g s).modes = s.modes
  pulls : ∀ s, (g s).pulls = s.pulls
  oracle : ∀ s, (g s).oracle = s.oracle
  setModes : ∀ s m, (g s).setModes m = g (s.setModes m)
  setPulls : ∀ s p, (g s).setPulls p = g (s.setPulls p)
  setOracle : ∀ s o, (g s).setOracle o = g (s.setOracle o)
  log : ∀ s e, (g s).log e = g (s.log e)

/-- The port primitives do not see the change `g`, and neither does the DHT engine. -/
structure DhtBlind (g : State → State) : Prop extends PortBlind g where
  dht : ∀ s, (g s).dht = s.dht
  pollBound : ∀ s, (g s).pollBound = s.pollBound
  setDht : ∀ s d, (g s).setDht d = g (s.setDht d)

/-- The port primitives do not see the change `g`, and neither does the RTC engine. -/
structure RtcBlind (g : State → State) : Prop extends PortBlind g where
  rtc : ∀ s, (g s).rtc = s.rtc
  setRtc : ∀ s r, (g s).setRtc r = g (s.setRtc r)

/-! ### The port primitives (R101 to R107) -/

section
variable {g : State → State} (hg : PortBlind g) (s : State) (e : Engine) (p : PinId)
include hg

theorem PortBlind.drive (v : Level) : (g s).drive e p v = g (s.drive e p v) := by
  simp only [State.drive, hg.modes, hg.setModes, hg.log]

theorem PortBlind.release (up : Bool) : (g s).release e p up = g (s.release e p up) := by
  simp only [State.release, hg.modes, hg.pulls, hg.setModes, hg.setPulls, hg.log]

theorem PortBlind.nextLevel : (g s).nextLevel = s.nextLevel := by rw [State.nextLevel, hg.oracle, State.nextLevel]

theorem PortBlind.nextClock : (g s).nextClock = s.nextClock := by rw [State.nextClock, hg.oracle, State.nextClock]

theorem PortBlind.sample : (g s).sample e p = g (s.sample e p) := by
  simp only [State.sample, hg.oracle, hg.nextLevel, hg.setOracle, hg.log]

theorem PortBlind.now : (g s).now e = g (s.now e) := by
  simp only [State.now, hg.oracle, hg.nextClock, hg.setOracle, hg.log]

end

/-! ### The DHT engine (41_dht_sampler.md R120 to R139) -/

section
variable {g : State → State} (hg : DhtBlind g) (s : State)
include hg

theorem DhtBlind.dhtGoto (l : DhtLabel) : (g s).dhtGoto l = g (s.dhtGoto l) := by
  rw [State.dhtGoto, hg.dht, hg.setDht, State.dhtGoto]

theorem DhtBlind.dhtReturn (status : Status) : (g s).dhtReturn status = g (s.dhtReturn status) := by
  simp only [State.dhtReturn, State.complete, hg.dht, hg.setDht, hg.log]

theorem DhtBlind.dhtFinish (status : Status) (elapsed : Option Clock) :
    (g s).dhtFinish status elapsed = g (s.dhtFinish status elapsed) := by
  rw [State.dhtFinish, State.dhtFinish, hg.dht, hg.dhtGoto, hg.dhtReturn, apply_ite g]

theorem DhtBlind.dhtWait (v : Level) (n : Nat) (again : Nat → DhtLabel) (next : DhtLabel) :
    (g s).dhtWait v n again next = g (s.dhtWait v n again next) := by
  simp only [State.dhtWait, hg.dht, hg.pollBound, hg.nextLevel, hg.sample, hg.dhtGoto, hg.dhtFinish, apply_ite g]

theorem DhtBlind.dhtSampleResponse : (g s).dhtSampleResponse = g s.dhtSampleResponse := by
  simp only [State.dhtSampleResponse, hg.dht, hg.nextLevel, hg.sample, hg.setDht, hg.dhtFinish, apply_ite g]

theorem DhtBlind.dhtReadEnd : (g s).dhtReadEnd = g s.dhtReadEnd := by
  simp only [State.dhtReadEnd, hg.dht, hg.nextClock, hg.now, hg.setDht, hg.dhtFinish]

/-- A micro-step of the DHT engine does not see the change. -/
theorem DhtBlind.dhtMicroStep : dhtMicroStep (g s) = g (dhtMicroStep s) := by
  unfold Machine.dhtMicroStep
  rw [hg.dht]
  cases s.dht.upc with
  | readStart => simp only [State.dhtReadStart, hg.dht, hg.nextClock, hg.now, hg.setDht]
  | driveLow => rw [hg.drive, hg.dhtGoto]
  | holdLow | holdRelease | bitDelay k => exact (congrArg (State.dhtGoto · _) (hg.log ..)).trans (hg.dhtGoto ..)
  | releaseLine => rw [hg.release, hg.dhtGoto]
  | sampleResponse => exact hg.dhtSampleResponse s
  | presenceLow n | presenceHigh n | bitHigh k n | bitLow k n => exact hg.dhtWait ..
  | bitSample k => simp only [State.dhtSampleBit, hg.dht, hg.nextLevel, hg.sample, hg.setDht]
  | readEnd => exact hg.dhtReadEnd s
  | emit status elapsed => exact (congrArg (State.dhtReturn · _) (hg.log ..)).trans (hg.dhtReturn ..)

end

/-! ### The RTC engine (42_rtc_transactions.md R162 to R167) -/

/-- The outcome with the change `g` made to its next state. -/
def mapNext (g : State → State) (o : Host.Outcome State Fault Refusal) : Host.Outcome State Fault Refusal :=
  match o with
  | .next t => .next (g t)
  | .fault e => .fault e
  | .refused r => .refused r

theorem mapNext_eq_next {g : State → State} {o : Host.Outcome State Fault Refusal} {t : State}
    (h : mapNext g o = .next t) : ∃ u, o = .next u ∧ t = g u := by
  cases o with
  | next u => exact ⟨u, rfl, (Host.Outcome.next.inj h).symm⟩
  | fault e => cases h
  | refused r => cases h

section
variable {g : State → State} (hg : RtcBlind g) (s : State)
include hg

theorem RtcBlind.setRtcUpc (prog : List (RtcMicro PinId)) : (g s).setRtcUpc prog = g (s.setRtcUpc prog) := by
  rw [State.setRtcUpc, hg.rtc, hg.setRtc, State.setRtcUpc]

theorem RtcBlind.rtcPerform (p : RtcPrim PinId) : rtcPerform p (g s) = g (rtcPerform p s) := by
  cases p with
  | drive pin v => exact hg.drive ..
  | driveBit dio i => simp only [Machine.rtcPerform, hg.rtc, hg.drive]
  | clockLow clk n after => simp only [Machine.rtcPerform, hg.rtc, hg.drive, hg.setRtc]
  | releaseDio dio => simp only [Machine.rtcPerform, hg.rtc, hg.release, hg.setRtc]
  | sampleBit dio i => simp only [Machine.rtcPerform, hg.rtc, hg.nextLevel, hg.sample, hg.setRtc]

theorem RtcBlind.rtcSettle : (g s).rtcSettle = g s.rtcSettle := by
  simp only [State.rtcSettle, State.complete, hg.rtc, hg.setRtc, hg.log, apply_ite g]

theorem RtcBlind.refuseTxn (r : OpRefusal) : (g s).refuseTxn r = g (s.refuseTxn r) := by
  simp only [State.refuseTxn, State.refuse, hg.rtc, hg.setRtc, hg.log]

theorem RtcBlind.wireTransaction (operands : Option OpRefusal) (cmd : Byte)
    (body : PinId → PinId → PinId → List (RtcPrim PinId)) :
    wireTransaction operands cmd body (g s) = mapNext g (wireTransaction operands cmd body s) := by
  unfold Machine.wireTransaction
  cases operands with
  | some r => simp only [hg.refuseTxn, mapNext]
  | none =>
    rw [hg.rtc]
    cases s.rtc.lines with
    | none => simp only [hg.refuseTxn, mapNext]
    | some l => simp only [hg.drive, hg.setRtc, mapNext]

theorem RtcBlind.exec_wire {i : Instr} (hi : isHostOp i = false) : exec i (g s) = mapNext g (exec i s) := by
  obtain ⟨cmd, body, hx⟩ := Machine.exec_wire hi
  rw [hx, hx, hg.wireTransaction]

theorem RtcBlind.rtcFetch {cmd : Byte} {found : Except DecodeError Instr}
    (hf : ∀ i, found = .ok i → isHostOp i = false) :
    rtcFetch exec cmd found (g s) = mapNext g (rtcFetch exec cmd found s) := by
  cases found with
  | ok i => exact hg.exec_wire s (hf i rfl)
  | error e => rfl

/-- A micro-step of the RTC engine does not see the change. -/
theorem RtcBlind.rtcMicroStep : rtcMicroStep exec (g s) = mapNext g (rtcMicroStep exec s) := by
  unfold Machine.rtcMicroStep
  rw [hg.rtc]
  cases s.rtc.upc with
  | nil => rfl
  | cons m rest =>
    cases m with
    | txnWrite cmd src =>
      simp only [hg.setRtcUpc]
      exact hg.rtcFetch _ fun _ => isHostOp_of_decodeWireWrite
    | txnRead cmd =>
      simp only [hg.setRtcUpc]
      exact hg.rtcFetch _ fun _ => isHostOp_of_decodeWireRead
    | prim p => simp only [hg.setRtcUpc, hg.rtcPerform, hg.rtcSettle, mapNext]

end

/-! ### Each engine beside another (R111) -/

theorem setRtc_dhtBlind (r : RtcEngine PinId) : DhtBlind fun s => s.setRtc r where
  toPortBlind := by constructor <;> intros <;> rfl
  dht _ := rfl
  pollBound _ := rfl
  setDht _ _ := rfl

theorem setDht_rtcBlind (d : DhtEngine PinId) : RtcBlind fun s => s.setDht d where
  toPortBlind := by constructor <;> intros <;> rfl
  rtc _ := rfl
  setRtc _ _ := rfl

/-- Settles O14: neither engine sees the other's, and a step that does not see the DHT engine does not write it: it
leaves an engine put in its own place. -/
theorem enginesAreIndependent : Obligations.EnginesAreIndependent := by
  refine ⟨fun s r => ⟨(dhtMicroStep_frame s).1, (setRtc_dhtBlind r).dhtMicroStep s⟩, fun s t d h => ?_⟩
  have hd (d : DhtEngine PinId) : rtcMicroStep exec (s.setDht d) = .next (t.setDht d) := by
    rw [(setDht_rtcBlind d).rtcMicroStep s, h]; rfl
  refine ⟨?_, hd d⟩
  have hself : t = t.setDht s.dht := Host.Outcome.next.inj (h.symm.trans (hd s.dht))
  rw [hself, setDht_dht]

/-! ### The history (R110) -/

/-- The state with the entries `h` before those of its history. -/
def State.prependHist (h : List (Entry PinId)) (s : State) : State := { s with hist := h ++ s.hist }

theorem prependHist_log (h : List (Entry PinId)) (s : State) (e : Entry PinId) :
    (s.prependHist h).log e = (s.log e).prependHist h := by
  simp only [State.prependHist, State.log, List.append_assoc]

theorem prependHist_dhtBlind (h : List (Entry PinId)) : DhtBlind (State.prependHist h) where
  log := prependHist_log h
  modes _ := rfl
  pulls _ := rfl
  oracle _ := rfl
  setModes _ _ := rfl
  setPulls _ _ := rfl
  setOracle _ _ := rfl
  dht _ := rfl
  pollBound _ := rfl
  setDht _ _ := rfl

theorem prependHist_rtcBlind (h : List (Entry PinId)) : RtcBlind (State.prependHist h) where
  toPortBlind := (prependHist_dhtBlind h).toPortBlind
  rtc _ := rfl
  setRtc _ _ := rfl

section
variable (h : List (Entry PinId)) (s : State)

/-- A host operation does not see the history if what it does when it is accepted does not: no reason to refuse it lies
there (R236). -/
theorem exec_prependHist_of_admission {i : Instr} {reason : Option OpRefusal} {accepted accepted' : State}
    (hx : exec i s = .next (s.admission reason accepted))
    (hx' : exec i (s.prependHist h) = .next ((s.prependHist h).admission reason accepted'))
    (ha : accepted' = accepted.prependHist h) :
    exec i (s.prependHist h) = mapNext (State.prependHist h) (exec i s) := by
  rw [hx, hx', ha, mapNext]
  cases reason with
  | none => rfl
  | some r => exact congrArg _ (prependHist_log h s _)

theorem returnResult_prependHist (reg : Option Milli) :
    (s.prependHist h).returnResult reg = (s.returnResult reg).prependHist h := by
  cases reg with
  | none => exact prependHist_log h s _
  | some m => exact prependHist_log h s _

/-- No instruction sees the history. -/
theorem exec_prependHist (i : Instr) : exec i (s.prependHist h) = mapNext (State.prependHist h) (exec i s) := by
  cases hi : isHostOp i with
  | false => exact (prependHist_rtcBlind h).exec_wire s hi
  | true =>
    cases i with
    | dhtUnit u =>
      exact exec_prependHist_of_admission h s rfl rfl
        (prependHist_log h (s.setDht { s.dht with unit := unitOperand u }) _)
    | dhtRdh | dhtRdt => exact exec_prependHist_of_admission h s rfl rfl (returnResult_prependHist h s _)
    | dhtRdcs | dhtRdsr => exact exec_prependHist_of_admission h s rfl rfl (prependHist_log h s _)
    | dhtQuery | rtcBind | rtcGetsec | rtcGetmin | rtcGethour | rtcGetday | rtcGetmonth | rtcGetwday | rtcGetyear
    | rtcSetsec | rtcSetmin | rtcSethour | rtcSetday | rtcSetmonth | rtcSetwday | rtcSetyear | rtcSetdt | rtcStart
    | rtcPause | rtcRdram | rtcWrram => exact exec_prependHist_of_admission h s rfl rfl rfl
    | ds1302WriteSec | ds1302WriteMin | ds1302WriteHour | ds1302WriteDate | ds1302WriteMonth | ds1302WriteWday
    | ds1302WriteYear | ds1302WriteWp | ds1302WriteRam | ds1302ReadSec | ds1302ReadMin | ds1302ReadHour
    | ds1302ReadDate | ds1302ReadMonth | ds1302ReadWday | ds1302ReadYear | ds1302ReadWp | ds1302ReadRam => cases hi

theorem stepHost_prependHist :
    stepHost exec (s.prependHist h) = mapNext (State.prependHist h) (stepHost exec s) := by
  have hl (r rest) : ((s.prependHist h).setPending rest).log (.issue r) =
      ((s.setPending rest).log (.issue r)).prependHist h := prependHist_log h (s.setPending rest) (.issue r)
  unfold stepHost
  rw [show (s.prependHist h).pending = s.pending from rfl]
  cases s.pending with
  | nil => rfl
  | cons r rest =>
    simp only [hl]
    cases decodeHost r with
    | ok i => exact exec_prependHist h _ i
    | error e => exact congrArg Host.Outcome.next (prependHist_log h _ _)

theorem stepDht_prependHist : stepDht (s.prependHist h) = mapNext (State.prependHist h) (stepDht s) := by
  unfold stepDht
  rw [(prependHist_dhtBlind h).dht, (prependHist_dhtBlind h).dhtMicroStep, apply_ite (mapNext _)]
  rfl

theorem stepRtc_prependHist : stepRtc exec (s.prependHist h) = mapNext (State.prependHist h) (stepRtc exec s) := by
  unfold stepRtc
  rw [(prependHist_rtcBlind h).rtc, (prependHist_rtcBlind h).rtcMicroStep, apply_ite (mapNext _)]
  rfl

theorem resetEvent_prependHist : (s.prependHist h).resetEvent = s.resetEvent.prependHist h :=
  prependHist_log h ((((s.setDht (.reset s.dht.qPin)).setRtc .reset).setModes []).setPulls []) .reset

/-- No step sees the history. -/
theorem step_prependHist : step (s.prependHist h) = mapNext (State.prependHist h) (step s) := by
  unfold step
  rw [show (s.prependHist h).mover = s.mover from rfl]
  cases s.mover with
  | host => exact stepHost_prependHist h s.takeTurn
  | dht => exact stepDht_prependHist h s.takeTurn
  | rtc => exact stepRtc_prependHist h s.takeTurn
  | reset => exact congrArg Host.Outcome.next (resetEvent_prependHist h s.takeTurn)

end

/-- Settles O13: the step from the empty history appends what any other history gets. -/
theorem stepNeverReadsHistory : Obligations.StepNeverReadsHistory := by
  intro s t h hs
  have hh (h : List (Entry PinId)) : { s with hist := h } = State.prependHist h { s with hist := [] } := by
    simp only [State.prependHist, List.append_nil]
  have hs' : mapNext (State.prependHist s.hist) (step { s with hist := [] }) = .next t := by
    rw [← step_prependHist, ← hh s.hist]; exact hs
  obtain ⟨u, hu, rfl⟩ := mapNext_eq_next hs'
  refine ⟨u.hist, rfl, ?_⟩
  rw [hh h, step_prependHist, hu]
  rfl

end Sys2Proof.Machine
end

section
/-! PROOF. The moves of the host and of the engines (40_port_primitives.md R110 to R115): which of them a step is, that
each answers a next state when the invariant holds, that a micro-step records one port event, and that none but the
reset ends the operation of another engine. -/

namespace Sys2Proof.Machine

/-! ### Which move a step is -/

section
variable {s : State}

theorem step_of_mover_host (hm : s.mover = .host) : step s = stepHost exec s.takeTurn := by rw [step, hm, moveOf]

theorem step_of_mover_dht (hm : s.mover = .dht) : step s = stepDht s.takeTurn := by rw [step, hm, moveOf]

theorem stepDht_of_busy (hb : s.dht.busy = true) : stepDht s = .next (dhtMicroStep s) := if_pos hb

theorem stepDht_of_idle (hb : s.dht.busy = false) : stepDht s = .next s := by simp only [stepDht, hb]; rfl

theorem stepRtc_of_idle (hb : s.rtc.busy = false) : stepRtc exec s = .next s := by simp only [stepRtc, hb]; rfl

/-- The host's move with nothing to ask. -/
theorem stepHost_of_pending_nil (hp : s.pending = []) : stepHost exec s = .next s := by simp only [stepHost, hp]

/-- The host's move with a request that spells an instruction. -/
theorem stepHost_of_decodeHost_ok {r : Request PinId} {rest : List (Request PinId)} {i : Instr}
    (hp : s.pending = r :: rest) (hd : decodeHost r = .ok i) :
    stepHost exec s = exec i ((s.setPending rest).log (.issue r)) := by
  simp only [stepHost, hp, hd]

end

/-- Settles O6: the request that is decoded is the first that the host holds. -/
theorem stepRunsHostRequest : Obligations.StepRunsHostRequest :=
  fun _ _ _ _ hm hp hd => (step_of_mover_host hm).trans (stepHost_of_decodeHost_ok hp hd)

/-- Settles O8: the mover's turn, by whether it is busy. -/
theorem stepMovesOneAgent : Obligations.StepMovesOneAgent := by
  refine fun s => ⟨fun hm hb => ?_, fun hm hb => ?_, fun hm hb => ?_, fun hm hb => ?_, fun hm hp => ?_⟩
  · exact (step_of_mover_dht hm).trans (stepDht_of_busy hb)
  · exact step_of_mover_rtc hm hb
  · exact (step_of_mover_dht hm).trans (stepDht_of_idle hb)
  · rw [step, hm]; exact stepRtc_of_idle hb
  · exact (step_of_mover_host hm).trans (stepHost_of_pending_nil hp)

/-! ### No move stops the machine -/

theorem exists_wireTransaction_next (operands : Option OpRefusal) (cmd : Byte)
    (body : PinId → PinId → PinId → List (RtcPrim PinId)) (s : State) :
    ∃ t, wireTransaction operands cmd body s = .next t := by
  cases operands with
  | some r => exact ⟨_, rfl⟩
  | none =>
    cases hl : s.rtc.lines with
    | none => exact ⟨_, wireTransaction_unbound hl cmd body⟩
    | some l => exact ⟨_, wireTransaction_next cmd body hl⟩

/-- Every instruction has a meaning in every state. -/
theorem exists_exec_next (i : Instr) (s : State) : ∃ t, exec i s = .next t := by
  cases hi : isHostOp i with
  | false =>
    obtain ⟨cmd, body, hx⟩ := exec_wire hi
    exact hx s ▸ exists_wireTransaction_next _ cmd body s
  | true =>
    cases i with
    | dhtQuery | dhtUnit | dhtRdh | dhtRdt | dhtRdcs | dhtRdsr | rtcBind | rtcGetsec | rtcGetmin | rtcGethour
    | rtcGetday | rtcGetmonth | rtcGetwday | rtcGetyear | rtcSetsec | rtcSetmin | rtcSethour | rtcSetday | rtcSetmonth
    | rtcSetwday | rtcSetyear | rtcSetdt | rtcStart | rtcPause | rtcRdram | rtcWrram => exact ⟨_, rfl⟩
    | ds1302WriteSec | ds1302WriteMin | ds1302WriteHour | ds1302WriteDate | ds1302WriteMonth | ds1302WriteWday
    | ds1302WriteYear | ds1302WriteWp | ds1302WriteRam | ds1302ReadSec | ds1302ReadMin | ds1302ReadHour
    | ds1302ReadDate | ds1302ReadMonth | ds1302ReadWday | ds1302ReadYear | ds1302ReadWp | ds1302ReadRam => cases hi

/-- The host's move answers a next state whatever it asks. -/
theorem exists_stepHost_next (s : State) : ∃ t, stepHost exec s = .next t := by
  cases hp : s.pending with
  | nil => exact ⟨_, stepHost_of_pending_nil hp⟩
  | cons r rest =>
    cases hd : decodeHost r with
    | ok i => exact stepHost_of_decodeHost_ok hp hd ▸ exists_exec_next i _
    | error e => exact ⟨_, stepHost_of_decodeHost_error hp hd⟩

/-- With the invariant a busy RTC engine opens the transaction that stands next, its command byte being one of R83's and
its lines being bound, or performs the port event that stands next. -/
theorem rtcMicroStep_of_inv {s : State} (h : s.Inv) (hb : s.rtc.busy = true) :
    (∃ rest ce cmd prog, rtcMicroStep exec s = .next ((s.setRtcUpc rest).txnOpened ce cmd prog)) ∨
      ∃ p rest, rtcMicroStep exec s = .next (rtcPerform p (s.setRtcUpc rest)).rtcSettle := by
  obtain ⟨hsome, hne⟩ := h.rtcBusy hb
  obtain ⟨⟨clk, dio, ce⟩, hl⟩ := Option.isSome_iff_exists.1 hsome
  cases hu : s.rtc.upc with
  | nil => exact absurd hu hne
  | cons m rest =>
    have hm : m.legal = true := h.commands m (hu ▸ List.mem_cons_self)
    have hl' : (s.setRtcUpc rest).rtc.lines = some (clk, dio, ce) := hl
    rw [rtcMicroStep, hu]
    cases m with
    | txnWrite cmd src => exact .inl ⟨rest, ce, cmd, _, (fetch_write _ _ _ hm).trans (wireTransaction_next cmd _ hl')⟩
    | txnRead cmd => exact .inl ⟨rest, ce, cmd, _, (fetch_read _ _ hm).trans (wireTransaction_next cmd _ hl')⟩
    | prim p => exact .inr ⟨p, rest, rfl⟩

theorem exists_stepRtc_next {s : State} (h : s.Inv) : ∃ t, stepRtc exec s = .next t := by
  cases hb : s.rtc.busy with
  | false => exact ⟨_, stepRtc_of_idle hb⟩
  | true =>
    rw [stepRtc, if_pos hb]
    obtain ⟨_, _, _, _, ht⟩ | ⟨_, _, ht⟩ := rtcMicroStep_of_inv h hb
    · exact ⟨_, ht⟩
    · exact ⟨_, ht⟩

/-- Settles O12: only a micro-step of the RTC engine could stop the machine, and with the invariant none does. -/
theorem stepAlwaysNext : Obligations.StepAlwaysNext := by
  intro s h
  unfold step
  cases s.mover with
  | host => exact exists_stepHost_next s.takeTurn
  | dht =>
    cases hb : s.takeTurn.dht.busy with
    | true => exact ⟨_, stepDht_of_busy hb⟩
    | false => exact ⟨_, stepDht_of_idle hb⟩
  | rtc => exact exists_stepRtc_next h.takeTurn
  | reset => exact ⟨_, rfl⟩

/-! ### A micro-step records one port event (R111, R113) -/

/-- From `s` to `t` one port event of engine `e` was recorded, and after it the completion of its operation exactly when
its `BUSY` is now 0. -/
def OneEvent (e : Engine) (s : State) (busy : Bool) (t : State) : Prop :=
  ∃ ev : Event PinId, (busy = true ∧ t.hist = s.hist ++ [.port e ev]) ∨
    (busy = false ∧ ∃ r : Result, t.hist = s.hist ++ [.port e ev, .done e r])

theorem OneEvent.of_port {e : Engine} {s t : State} {busy : Bool} {ev : Event PinId} (hb : busy = true)
    (ht : t.hist = s.hist ++ [.port e ev]) : OneEvent e s busy t := ⟨ev, .inl ⟨hb, ht⟩⟩

theorem OneEvent.of_done {e : Engine} {s u t : State} {busy : Bool} {ev : Event PinId} {r : Result} (hb : busy = false)
    (hu : u.hist = s.hist ++ [.port e ev]) (ht : t.hist = u.hist ++ [.done e r]) : OneEvent e s busy t :=
  ⟨ev, .inr ⟨hb, r, by rw [ht, hu, List.append_assoc]; rfl⟩⟩

/-- An engine that is idle afterwards has completed its operation. -/
theorem OneEvent.done {e : Engine} {s t : State} {busy : Bool} (h : OneEvent e s busy t) (hb : busy = false) :
    ∃ (ev : Event PinId) (r : Result), t.hist = s.hist ++ [.port e ev, .done e r] := by
  obtain ⟨ev, ⟨hb', -⟩ | ⟨-, r, ht⟩⟩ := h
  · exact absurd (hb.symm.trans hb') Bool.false_ne_true
  · exact ⟨ev, r, ht⟩

section
variable {s u : State} {ev : Event PinId} (hb : u.dht.busy = true) (hu : u.hist = s.hist ++ [.port .dht ev])
include hu

theorem dhtReturn_oneEvent (status : Status) :
    OneEvent .dht s (u.dhtReturn status).dht.busy (u.dhtReturn status) := .of_done rfl hu rfl

include hb

theorem dhtFinish_oneEvent (status : Status) (elapsed : Option Clock) :
    OneEvent .dht s (u.dhtFinish status elapsed).dht.busy (u.dhtFinish status elapsed) := by
  cases hq : u.dht.qDiag with
  | false => rw [dhtFinish_quiet hq]; exact dhtReturn_oneEvent hu status
  | true => rw [dhtFinish_diag hq]; exact .of_port hb hu

end

section
variable {s : State} (hb : s.dht.busy = true)
include hb

theorem dhtWait_oneEvent (v : Level) (n : Nat) (again : Nat → DhtLabel) (next : DhtLabel) :
    OneEvent .dht s (s.dhtWait v n again next).dht.busy (s.dhtWait v n again next) := by
  unfold State.dhtWait
  dsimp only
  split
  · exact .of_port hb rfl
  · split
    · exact dhtFinish_oneEvent (u := s.sample .dht s.dht.qPin) hb rfl _ _
    · exact .of_port hb rfl

theorem dhtSampleResponse_oneEvent : OneEvent .dht s s.dhtSampleResponse.dht.busy s.dhtSampleResponse := by
  unfold State.dhtSampleResponse
  dsimp only
  split
  · exact dhtFinish_oneEvent (u := s.sample .dht s.dht.qPin) hb rfl _ _
  · exact .of_port hb rfl

theorem dhtMicroStep_oneEvent : OneEvent .dht s (dhtMicroStep s).dht.busy (dhtMicroStep s) := by
  unfold dhtMicroStep
  cases s.dht.upc with
  | readStart | driveLow | holdLow | releaseLine | holdRelease | bitDelay k | bitSample k => exact .of_port hb rfl
  | sampleResponse => exact dhtSampleResponse_oneEvent hb
  | presenceLow n | presenceHigh n | bitHigh k n | bitLow k n => exact dhtWait_oneEvent hb ..
  | readEnd => exact dhtFinish_oneEvent (u := (s.now .dht).setDht (s.dht.publish s.nextClock)) hb rfl _ _
  | emit status elapsed => exact dhtReturn_oneEvent (u := s.emit .dht (s.dht.diagRecord status elapsed)) rfl status

end

theorem rtcPerform_hist (p : RtcPrim PinId) (s : State) :
    ∃ ev : Event PinId, (rtcPerform p s).hist = s.hist ++ [.port .rtc ev] := by
  cases p <;> exact ⟨_, rfl⟩

/-- After its event the engine is still busy, or its operation completes. -/
theorem rtcSettle_oneEvent {s u : State} {ev : Event PinId} (hb : u.rtc.busy = true)
    (hu : u.hist = s.hist ++ [.port .rtc ev]) : OneEvent .rtc s u.rtcSettle.rtc.busy u.rtcSettle := by
  unfold State.rtcSettle
  split
  · exact .of_done rfl hu rfl
  · exact .of_port hb hu

theorem rtcMicroStep_oneEvent {s t : State} (h : s.Inv) (hb : s.rtc.busy = true) (hs : rtcMicroStep exec s = .next t) :
    OneEvent .rtc s t.rtc.busy t := by
  obtain ⟨rest, ce, cmd, prog, ht⟩ | ⟨p, rest, ht⟩ := rtcMicroStep_of_inv h hb
  · obtain rfl := Host.Outcome.next.inj (ht.symm.trans hs)
    exact .of_port rfl rfl
  · obtain rfl := Host.Outcome.next.inj (ht.symm.trans hs)
    obtain ⟨-, -, -, -, -, hbusy, -⟩ := rtcPerform_frame p (s.setRtcUpc rest)
    obtain ⟨ev, hev⟩ := rtcPerform_hist p (s.setRtcUpc rest)
    exact rtcSettle_oneEvent (hbusy.trans hb) hev

/-- Settles O15: label by label for the DHT engine; the RTC engine opens a transaction or performs a port event. -/
theorem microStepIsOneEvent : Obligations.MicroStepIsOneEvent :=
  ⟨fun _ => dhtMicroStep_oneEvent, fun _ _ => rtcMicroStep_oneEvent⟩

/-! ### What ends an operation (R115) -/

theorem isHostOp_of_decodeHost {r : Request PinId} {i : Instr} (h : decodeHost r = .ok i) : isHostOp i = true := by
  rw [isHostOp, encode_of_decodeHost h]

/-- The issue of a host operation leaves every busy engine. -/
theorem ExecCase.keeps_busy {s t : State} {i : Instr} (hx : ExecCase s i t) (hi : isHostOp i = true) :
    (s.dht.busy = true → t.dht = s.dht) ∧ (s.rtc.busy = true → t.rtc = s.rtc) := by
  cases hx with
  | logged e => exact ⟨fun _ => rfl, fun _ => rfl⟩
  | query _ _ _ _ hb | unit _ hb => exact ⟨fun h => absurd (hb.symm.trans h) Bool.false_ne_true, fun _ => rfl⟩
  | bind _ _ _ hb | launch _ _ hb => exact ⟨fun _ => rfl, fun h => absurd (hb.symm.trans h) Bool.false_ne_true⟩
  | refuseTxn _ hw | openTxn _ _ _ _ hw => exact absurd (hw.symm.trans hi) Bool.false_ne_true

/-- So does the host's move. -/
theorem stepHost_keeps_busy {s t : State} (h : stepHost exec s = .next t) :
    (s.dht.busy = true → t.dht = s.dht) ∧ (s.rtc.busy = true → t.rtc = s.rtc) := by
  cases hp : s.pending with
  | nil =>
    rw [stepHost_of_pending_nil hp] at h; cases h
    exact ⟨fun _ => rfl, fun _ => rfl⟩
  | cons r rest =>
    cases hd : decodeHost r with
    | ok i =>
      rw [stepHost_of_decodeHost_ok hp hd] at h
      exact (execCase h).keeps_busy (isHostOp_of_decodeHost hd)
    | error e =>
      rw [stepHost_of_decodeHost_error hp hd] at h; cases h
      exact ⟨fun _ => rfl, fun _ => rfl⟩

/-- A turn of the DHT engine leaves the RTC engine (R111). -/
theorem stepDht_rtc {s t : State} (h : stepDht s = .next t) : t.rtc = s.rtc := by
  unfold stepDht at h
  split at h
  · cases h; exact (dhtMicroStep_frame s).1
  · cases h; rfl

section
variable {s t : State} (h : step s = .next t)
include h

theorem step_dht_eq (hb : s.dht.busy = true) (hm : s.mover = .host ∨ s.mover = .rtc) : t.dht = s.dht := by
  unfold step at h
  obtain hm | hm := hm <;> rw [hm] at h
  · exact (stepHost_keeps_busy h).1 hb
  · exact stepRtc_dht (s := s.takeTurn) h

theorem step_rtc_eq (hb : s.rtc.busy = true) (hm : s.mover = .host ∨ s.mover = .dht) : t.rtc = s.rtc := by
  unfold step at h
  obtain hm | hm := hm <;> rw [hm] at h
  · exact (stepHost_keeps_busy h).2 hb
  · exact stepDht_rtc (s := s.takeTurn) h

theorem step_dht_ends (hb : s.dht.busy = true) (ht : t.dht.busy = false) :
    s.mover = .reset ∨ ∃ (ev : Event PinId) (r : Result), t.hist = s.hist ++ [.port .dht ev, .done .dht r] := by
  have stays (he : t.dht = s.dht) : False := Bool.false_ne_true (ht.symm.trans (he ▸ hb))
  cases hm : s.mover with
  | reset => exact .inl rfl
  | host => exact (stays (step_dht_eq h hb (.inl hm))).elim
  | rtc => exact (stays (step_dht_eq h hb (.inr hm))).elim
  | dht =>
    rw [step_of_mover_dht hm, stepDht_of_busy (s := s.takeTurn) hb] at h
    obtain rfl := Host.Outcome.next.inj h
    exact .inr ((dhtMicroStep_oneEvent (s := s.takeTurn) hb).done ht)

theorem step_rtc_ends (hi : s.Inv) (hb : s.rtc.busy = true) (ht : t.rtc.busy = false) :
    s.mover = .reset ∨ ∃ (ev : Event PinId) (r : Result), t.hist = s.hist ++ [.port .rtc ev, .done .rtc r] := by
  have stays (he : t.rtc = s.rtc) : False := Bool.false_ne_true (ht.symm.trans (he ▸ hb))
  cases hm : s.mover with
  | reset => exact .inl rfl
  | host => exact (stays (step_rtc_eq h hb (.inl hm))).elim
  | dht => exact (stays (step_rtc_eq h hb (.inr hm))).elim
  | rtc =>
    rw [step_of_mover_rtc hm hb] at h
    exact .inr ((rtcMicroStep_oneEvent hi.takeTurn hb h).done ht)

end

/-- Settles O16: no other agent's move writes a busy engine, so what makes it idle is the reset or its own event. -/
theorem noCancellation : Obligations.NoCancellation :=
  fun _ _ h => ⟨step_dht_eq h, step_rtc_eq h, step_dht_ends h, step_rtc_ends h⟩

end Sys2Proof.Machine
end

section
/-! PROOF. What the issue of a host operation leaves as it was (40_port_primitives.md R112 to R114), and the state in
which a query starts (41_dht_sampler.md R122). -/

namespace Sys2Proof.Machine

/-! ### The frame of an issue -/

/-- What executing the host operation `i` in `s` leaves as it was in `t`. -/
structure Issued (s : State) (i : Instr) (t : State) : Prop where
  modes : t.modes = s.modes
  pulls : t.pulls = s.pulls
  oracle : t.oracle = s.oracle
  pending : t.pending = s.pending
  turns : t.turns = s.turns
  pollBound : t.pollBound = s.pollBound
  rtc : isDhtOp i = true → t.rtc = s.rtc
  dht : isDhtOp i = false → t.dht = s.dht
  sr : t.rtc.sr = s.rtc.sr
  shcnt : t.rtc.shcnt = s.rtc.shcnt
  raw : t.rtc.raw = s.rtc.raw
  binding : (∀ a b c, i ≠ .rtcBind a b c) →
    t.rtc.clkPin = s.rtc.clkPin ∧ t.rtc.dioPin = s.rtc.dioPin ∧ t.rtc.cePin = s.rtc.cePin
  hist : t.hist = s.hist ∨ ∃ e, t.hist = s.hist ++ [e] ∧ ∀ g ev, e ≠ .port g ev

section
variable {s t : State} {i : Instr}

theorem Issued.refl (s : State) (i : Instr) : Issued s i s where
  modes := rfl
  pulls := rfl
  oracle := rfl
  pending := rfl
  turns := rfl
  pollBound := rfl
  rtc _ := rfl
  dht _ := rfl
  sr := rfl
  shcnt := rfl
  raw := rfl
  binding _ := ⟨rfl, rfl, rfl⟩
  hist := .inl rfl

/-- An issue that changes the RTC engine only. -/
theorem Issued.setRtc (hi : isDhtOp i = false) {r : RtcEngine PinId} (hsr : r.sr = s.rtc.sr)
    (hcnt : r.shcnt = s.rtc.shcnt) (hraw : r.raw = s.rtc.raw)
    (hb : (∀ a b c, i ≠ .rtcBind a b c) → r.clkPin = s.rtc.clkPin ∧ r.dioPin = s.rtc.dioPin ∧ r.cePin = s.rtc.cePin) :
    Issued s i (s.setRtc r) where
  __ := refl s i
  rtc h := nomatch hi.symm.trans h
  sr := hsr
  shcnt := hcnt
  raw := hraw
  binding := hb

/-- An issue that changes the DHT engine only. -/
theorem Issued.setDht (hi : isDhtOp i = true) (d : DhtEngine PinId) : Issued s i (s.setDht d) where
  __ := refl s i
  dht h := nomatch hi.symm.trans h

/-- An entry other than a port event is recorded. -/
theorem Issued.log {u : State} (h : Issued s i u) (hu : u.hist = s.hist) {e : Entry PinId}
    (he : ∀ g ev, e ≠ .port g ev) : Issued s i (u.log e) where
  __ := h
  hist := .inr ⟨e, congrArg (· ++ [e]) hu, he⟩

theorem Issued.complete {u : State} (h : Issued s i u) (hu : u.hist = s.hist) (e : Engine) (r : Result) :
    Issued s i (u.complete e r) := h.log hu nofun

theorem Issued.refuse (r : OpRefusal) : Issued s i (s.refuse r) := (refl s i).log rfl nofun

theorem Issued.returnResult (reg : Option Milli) : Issued s i (s.returnResult reg) := by
  cases reg with
  | none => exact (refl s i).log rfl nofun
  | some m => exact (refl s i).log rfl nofun

/-- An operation of the RTC engine other than `rtc.bind` only starts the engine. -/
theorem Issued.launch (hi : isDhtOp i = false) (prog : List (RtcMicro PinId)) (ret : RtcReturn) :
    Issued s i (s.setRtc (s.rtc.launch prog ret)) := .setRtc hi rfl rfl rfl fun _ => ⟨rfl, rfl, rfl⟩

theorem Issued.of_admission {reason : Option OpRefusal} {accepted : State} (ha : Issued s i accepted)
    (hx : exec i s = .next (s.admission reason accepted)) (h : exec i s = .next t) : Issued s i t := by
  obtain rfl : s.admission reason accepted = t := Host.Outcome.next.inj (hx.symm.trans h)
  cases reason with
  | none => exact ha
  | some r => exact .refuse r

/-- Executing a host operation is an issue. -/
theorem exec_issued (hi : isHostOp i = true) (h : exec i s = .next t) : Issued s i t := by
  cases i with
  | dhtQuery => exact .of_admission (.setDht rfl _) rfl h
  | dhtUnit u => exact .of_admission ((Issued.setDht rfl { s.dht with unit := unitOperand u }).complete rfl ..) rfl h
  | dhtRdh | dhtRdt => exact .of_admission (.returnResult _) rfl h
  | dhtRdcs | dhtRdsr => exact .of_admission ((Issued.refl s _).complete rfl ..) rfl h
  | rtcBind clk dio ce =>
    refine .of_admission ?_ rfl h
    exact .setRtc rfl rfl rfl rfl fun hn => absurd rfl (hn clk dio ce)
  | rtcGetsec | rtcGetmin | rtcGethour | rtcGetday | rtcGetmonth | rtcGetwday | rtcGetyear | rtcSetsec | rtcSetmin
  | rtcSethour | rtcSetday | rtcSetmonth | rtcSetwday | rtcSetyear | rtcSetdt | rtcStart | rtcPause | rtcRdram
  | rtcWrram => exact .of_admission (.launch rfl _ _) rfl h
  | ds1302WriteSec | ds1302WriteMin | ds1302WriteHour | ds1302WriteDate | ds1302WriteMonth | ds1302WriteWday
  | ds1302WriteYear | ds1302WriteWp | ds1302WriteRam | ds1302ReadSec | ds1302ReadMin | ds1302ReadHour
  | ds1302ReadDate | ds1302ReadMonth | ds1302ReadWday | ds1302ReadYear | ds1302ReadWp | ds1302ReadRam => cases hi

end

/-- Settles O20: a refusal only records its reason, and an accepted operation writes its own engine or records its
result. -/
theorem issueFrame : Obligations.IssueFrame := by
  intro i s t hi h
  obtain ⟨modes, pulls, oracle, pending, turns, pollBound, rtc, dht, sr, shcnt, raw, binding, hist⟩ := exec_issued hi h
  exact ⟨modes, pulls, oracle, pending, turns, pollBound, rtc, dht, sr, shcnt, raw, binding, hist⟩

/-! ### The start of a query -/

theorem variantOperand_eq (n : Nat) : variantOperand n = if n = 0 then .dht11 else .dht22 := by
  simp only [variantOperand, beq_iff_eq]

theorem bitOperand_eq (n : Nat) : bitOperand n = decide (n = 1) := beq_eq_decide n 1

/-- A pin that is not bound to the RTC engine. -/
theorem owns_eq_false {r : RtcEngine PinId} {p : PinId} :
    r.owns p = false ↔ r.clkPin ≠ some p ∧ r.dioPin ≠ some p ∧ r.cePin ≠ some p := by
  simp [RtcEngine.owns, and_assoc]

/-- A query with legal operands on an idle engine, its pin not bound to the other, is admitted (R121). -/
theorem dhtQuery_admitted {s : State} {pin : PinId} {var pull diag : Nat} (hb : s.dht.busy = false)
    (ho : s.rtc.owns pin = false) (hv : var < 2) (hp : pull < 2) (hd : diag < 2) :
    exec (.dhtQuery pin var pull diag) s =
      .next (s.setDht (s.dht.start pin (variantOperand var) (bitOperand pull) (bitOperand diag))) := by
  have hop : checkOperand (isBit var && isBit pull && isBit diag) = none :=
    checkOperand_eq_none.2 (by simp [isBit, hv, hp, hd])
  rw [exec, execDhtQuery, hop, checkPinShared_eq_none.2 ho, checkDhtIdle_eq_none.2 hb]
  rfl

/-- Settles O24: the admitted query's operands are the latches' values. -/
theorem queryStarts : Obligations.QueryStarts := by
  intro s pin var pull diag hb hclk hdio hce hv hp hd
  rw [dhtQuery_admitted hb (owns_eq_false.2 ⟨hclk, hdio, hce⟩) hv hp hd, variantOperand_eq, bitOperand_eq, bitOperand_eq]
  rfl

end Sys2Proof.Machine
end

section
/-! PROOF. The waits of a query (40_port_primitives.md R108): how one ends, times out (41_dht_sampler.md R139), and does
not end when no bound is given (70_reset_and_hazards.md R270). -/

namespace Sys2Proof.Machine

/-! ### The sample after a stretch of waiting -/

section
variable (s : State) (l : DhtLabel) (v : Level) (n : Nat)

theorem waitedOn_nextLevel : (s.waitedOn l v n).nextLevel = s.coming n := level_dropLevels s.oracle n 0

/-- One more sample of the waited level. -/
theorem waitedOn_sample (h : s.coming n = v) :
    (s.waitedOn l v n).sample .dht s.dht.qPin = s.waitedOn l v (n + 1) := by
  rw [State.sample, waitedOn_nextLevel, h]
  simp only [State.waitedOn, State.setOracle, State.log, dropLevels_dropLevels, samplesOf, entriesOf,
    List.replicate_succ', List.map_append, List.append_assoc]
  rfl

/-- The sample of the other level, after which the query goes on at `next`. -/
theorem waitedOn_done (next : DhtLabel) (h : s.coming n = !v) :
    ((s.waitedOn l v n).sample .dht s.dht.qPin).dhtGoto next =
      { s with
        dht := { s.dht with upc := next }, oracle := s.oracle.dropLevels (n + 1),
        hist := s.hist ++ entriesOf .dht (samplesOf s.dht.qPin v n ++ [.sample s.dht.qPin (!v)]) } := by
  rw [State.sample, waitedOn_nextLevel, h]
  simp only [State.waitedOn, State.setOracle, State.log, State.dhtGoto, State.setDht, dropLevels_dropLevels, entriesOf,
    List.map_append, List.append_assoc]
  rfl

end

/-! ### The finish of a query (R137, R138) -/

/-- The state in which a query has returned `status`, after the diagnostic event if it was asked for. -/
def State.dhtFinished (s : State) (status : Status) (elapsed : Option Clock) : State :=
  { s with
    dht := { s.dht with busy := false, upc := if s.dht.qDiag then .emit status elapsed else s.dht.upc },
    hist := s.hist ++ entriesOf .dht (if s.dht.qDiag then [.emit (s.dht.diagRecord status elapsed)] else []) ++
      [.done .dht (.reading (s.dht.reading status))] }

theorem dhtFinished_quiet {s : State} (h : s.dht.qDiag = false) (status : Status) (elapsed : Option Clock) :
    s.dhtFinished status elapsed = s.dhtReturn status := by
  have hn : ¬s.dht.qDiag = true := by simp only [h, Bool.false_eq_true, not_false_iff]
  rw [State.dhtFinished, if_neg hn, if_neg hn, entriesOf, List.map_nil, List.append_nil]
  rfl

theorem dhtFinished_diag {s : State} (h : s.dht.qDiag = true) (status : Status) (elapsed : Option Clock) :
    s.dhtFinished status elapsed = dhtMicroStep (s.dhtGoto (.emit status elapsed)) := by
  rw [State.dhtFinished, if_pos h, if_pos h]
  rfl

/-- The finish takes one more step when the diagnostic event was asked for. -/
theorem steps_dhtFinish {s : State} (ht : s.turns = []) (hb : s.dht.busy = true) (status : Status)
    (elapsed : Option Clock) :
    steps s.dht.qDiag.toNat (s.dhtFinish status elapsed) = .next (s.dhtFinished status elapsed) := by
  cases hq : s.dht.qDiag with
  | false => rw [dhtFinish_quiet hq, dhtFinished_quiet hq]; rfl
  | true =>
    rw [dhtFinish_diag hq, dhtFinished_diag hq]
    exact steps_succ 0 (step_dht (s := s.dhtGoto (.emit status elapsed)) ht hb)

/-! ### The waits -/

/-- Settles O27: `n` samples of the waited level, and the one that ends the wait. -/
theorem waitEnds : Obligations.WaitEnds := by
  intro s label v next n hw hb ht hu hc hn hp
  have hwait := steps_waiting hw hb ht n 0 hu hc (by simpa only [Nat.zero_add] using hp)
  have hlast := step_wait_done (s := s.waitedOn (label (0 + n)) v n) hw ht hb rfl ((waitedOn_nextLevel ..).trans hn)
  rw [steps_add n 1 hwait, steps_succ 0 hlast, ← waitedOn_done s (label (0 + n)) v n next hn]
  rfl

/-- Settles O28: all samples but the last go on waiting, the last reaches the bound, and the query finishes. -/
theorem waitTimesOut : Obligations.WaitTimesOut := by
  intro s label v next b hw hb ht hu hp hc
  obtain ⟨k, hk⟩ : ∃ k, max b 1 = k + 1 := ⟨max b 1 - 1, by omega⟩
  rw [hk] at hc ⊢
  have hwait := steps_waiting hw hb ht k 0 hu (fun j hj => hc j (by omega))
    (fun b' hb' => by obtain rfl := Option.some.inj (hp.symm.trans hb'); omega)
  have hexp : pollExpired s.pollBound (0 + k + 1) = true := by
    rw [hp]; exact decide_eq_true (by omega)
  have hlast := step_wait_timeout (s := s.waitedOn (label (0 + k)) v k) hw ht hb rfl
    ((waitedOn_nextLevel ..).trans (hc k (by omega))) hexp
  rw [show (s.waitedOn (label (0 + k)) v k).dht.qPin = s.dht.qPin from rfl,
    waitedOn_sample _ _ _ _ (hc k (by omega))] at hlast
  refine ⟨(s.waitedOn (label (0 + k)) v (k + 1)).dhtFinished .timeout none, ?_, rfl, rfl, ?_, rfl, rfl, rfl, rfl, rfl,
    rfl⟩
  · rw [Nat.add_assoc, steps_add k _ hwait, Nat.add_comm 1, steps_succ _ hlast]
    exact steps_dhtFinish (s := s.waitedOn (label (0 + k)) v (k + 1)) ht hb .timeout none
  · simp only [State.dhtFinished, State.waitedOn, entriesOf, List.map_append, List.append_assoc]
    rfl

/-- Settles O29: with no bound a wait only samples, as long as its level stays. -/
theorem waitHangs : Obligations.WaitHangs := by
  intro s label v next n hw hb ht hu hp hc
  have hwait := steps_waiting hw hb ht n 0 hu hc fun b hq => nomatch hp.symm.trans hq
  rwa [Nat.zero_add] at hwait

end Sys2Proof.Machine
end

section
/-! PROOF. What `Drive` and `Release` do to the pins (40_port_primitives.md R101, R102). -/

namespace Sys2Proof.Machine

/-- Settles O36: the pin tables after a write, read at any pin. -/
theorem pinPrimitives : Obligations.PinPrimitives := by
  intro s e p q v up
  refine ⟨drive_mode s e p v q, rfl, rfl, release_mode s e p up q, ?_, rfl, ⟨_, _, rfl⟩, _, _, _, rfl⟩
  rw [release_pull]
  simp only [and_comm]

end Sys2Proof.Machine
end

section
/-! PROOF. Setting the unit and reading the results (41_dht_sampler.md R140 to R144): these operations complete, fault
or are refused at issue. -/

namespace Sys2Proof.Machine

/-! ### The idle check alone -/

theorem admission_of_dhtBusy {s : State} (hb : s.dht.busy = true) (t : State) :
    s.admission s.checkDhtIdle t = s.refuse .busy := by
  rw [State.checkDhtIdle, if_pos hb, admit_some]

theorem admission_of_dhtIdle {s : State} (hb : s.dht.busy = false) (t : State) :
    s.admission s.checkDhtIdle t = t := by
  rw [checkDhtIdle_eq_none.2 hb, admit_none]

/-! ### The four reads (R141 to R144) -/

theorem returnResult_of_some {s : State} {reg : Option Milli} {m : Milli} (h : reg = some m) :
    s.returnResult reg = s.complete .dht (.value m) := by subst h; rfl

theorem returnResult_of_none {s : State} {reg : Option Milli} (h : reg = none) :
    s.returnResult reg = s.faultOp .readUnset := by subst h; rfl

/-- Settles O22: each read is admitted exactly when the engine is idle, and then returns its register. -/
theorem resultReadsReturn : Obligations.ResultReadsReturn := by
  refine ⟨fun s hb i hi => ?_, fun s hb => ?_⟩
  · obtain rfl | rfl | rfl | rfl := hi <;> exact congrArg _ (admission_of_dhtBusy hb _)
  · have admitted := admission_of_dhtIdle hb
    exact ⟨fun _ h => congrArg _ ((admitted _).trans (returnResult_of_some h)),
      fun h => congrArg _ ((admitted _).trans (returnResult_of_none h)),
      fun _ h => congrArg _ ((admitted _).trans (returnResult_of_some h)),
      fun h => congrArg _ ((admitted _).trans (returnResult_of_none h)),
      congrArg _ (admitted _), congrArg _ (admitted _)⟩

/-! ### The unit (R140) -/

theorem checkOperand_isBit_of_lt {n : Nat} (h : n < 2) : checkOperand (isBit n) = none :=
  checkOperand_eq_none.2 (decide_eq_true h)

theorem checkOperand_isBit_of_ge {n : Nat} (h : 2 ≤ n) : checkOperand (isBit n) = some .operand := by
  rw [isBit, decide_eq_false (Nat.not_lt.2 h)]; rfl

theorem unitOperand_eq (n : Nat) : unitOperand n = if n = 0 then .celsius else .fahrenheit := by
  simp only [unitOperand, beq_iff_eq]

/-- Settles O23: the operand is checked first, then the engine; an admitted operation writes the unit alone. -/
theorem unitIsSet : Obligations.UnitIsSet := by
  intro s u
  refine ⟨fun hu => ?_, fun hu hb => ?_, fun hu hb => ?_⟩
  · rw [exec, execDhtUnit, checkOperand_isBit_of_ge hu]; rfl
  · rw [exec, execDhtUnit, checkOperand_isBit_of_lt hu, Option.none_or, admission_of_dhtBusy hb]; rfl
  · rw [exec, execDhtUnit, checkOperand_isBit_of_lt hu, Option.none_or, admission_of_dhtIdle hb, unitOperand_eq]; rfl

end Sys2Proof.Machine
end

section
/-! PROOF. The values of a DHT frame: the checksum (41_dht_sampler.md R129, 90_conflicts.md C6), the two decodes (R133,
R134) and the unit step (R135) as exact rationals, and the frame bit by bit (R126). -/

namespace Sys2Proof.Machine

/-! ### The bits of a frame (R126) -/

theorem setFrameBit_getLsbD (f : Frame) (k : Nat) (v : Bool) {j : Nat} (hj : j < 40) :
    (setFrameBit f k v).getLsbD j = if j = k then v else f.getLsbD j := by
  have hpow : (BitVec.twoPow Config.nBits k).getLsbD j = decide (j = k) := by
    rw [BitVec.getLsbD_twoPow, ← Bool.decide_and]
    exact decide_eq_decide.2 ⟨fun h => h.2.symm, fun h => ⟨h ▸ hj, h.symm⟩⟩
  cases v with
  | true =>
    rw [setFrameBit, if_pos rfl, BitVec.getLsbD_or, hpow]
    by_cases h : j = k <;> simp [h]
  | false =>
    rw [setFrameBit, if_neg Bool.false_ne_true, BitVec.getLsbD_and, BitVec.getLsbD_not, hpow, decide_eq_true hj]
    by_cases h : j = k <;> simp [h]

/-- Settles O31: the written bit is set or cleared by its power of two, the others are kept by it. -/
theorem frameBitWritten : Obligations.FrameBitWritten :=
  fun f k _ v _ hj => setFrameBit_getLsbD f k v hj

/-! ### The checksum (R129) -/

/-- Settles O32: the sum of four bytes is at most 1020, so that at most 512 and 256 are taken from it. -/
theorem checksumBySubtraction : Obligations.ChecksumBySubtraction := by
  intro d c
  refine ⟨checksumOk_eq (pack d.frame), ?_⟩
  have h₀ := frameByte_lt d.frame 0
  have h₁ := frameByte_lt d.frame 1
  have h₂ := frameByte_lt d.frame 2
  have h₃ := frameByte_lt d.frame 3
  rw [pack_eq]
  dsimp only
  split <;> split <;> omega

/-! ### The decodes (R133, R134) -/

/-- Settles O33: a whole part counts 1000 thousandths, a hundredth 10. -/
theorem dht11DecodeExact : Obligations.Dht11DecodeExact := by
  intro b h₀ h₁ h₂ h₃
  have hundredths (m n : Nat) : ((1000 * (m : Int) + 10 * (n : Int) : Int) : ℚ) / 1000 = m + (n : ℚ) / 100 := by
    push_cast; ring
  rw [decode11_eq]
  refine ⟨hundredths b.b0 b.b1, hundredths b.b2 b.b3, ?_⟩
  dsimp only [Milli]
  omega

/-- The DHT22 humidity: the two bytes count tenths. -/
theorem decode22_hum (b : FrameBytes) : (decode22 b).1 = 100 * ((b.b0 : Int) * 256 + b.b1) := by
  rw [decode22_eq, rawHumidity_eq]; push_cast; rfl

/-- The DHT22 temperature with a clear sign bit: the two bytes count tenths. -/
theorem decode22_temp_of_lt {b : FrameBytes} (h : b.b2 < 128) :
    (decode22 b).2 = 100 * ((b.b2 : Int) * 256 + b.b3) := by
  have hs : ¬tempNegative b = true := by rw [tempNegative_eq, decide_eq_true_iff]; omega
  rw [decode22_eq, if_neg hs, tempMagnitude_eq]
  dsimp only [Milli]
  omega

/-- The DHT22 temperature with the sign bit set: the other fifteen bits count tenths, negated (R79). -/
theorem decode22_temp_of_ge {b : FrameBytes} (h : 128 ≤ b.b2) (hb : b.b2 < 256) :
    (decode22 b).2 = -(100 * (((b.b2 : Int) - 128) * 256 + b.b3)) := by
  have hs : tempNegative b = true := by rw [tempNegative_eq, decide_eq_true_iff]; omega
  rw [decode22_eq, if_pos hs, tempMagnitude_eq]
  dsimp only [Milli]
  omega

/-- Settles O34: the humidity, and on either side of the sign bit the temperature, is a whole number of tenths. -/
theorem dht22DecodeExact : Obligations.Dht22DecodeExact := by
  intro b h₀ h₁ h₂ h₃
  have hhum : 0 ≤ (decode22 b).1 ∧ (decode22 b).1 ≤ 6553500 := by
    rw [decode22_hum]; dsimp only [Milli]; omega
  have htemp : -3276700 ≤ (decode22 b).2 ∧ (decode22 b).2 ≤ 3276700 := by
    obtain hlt | hge := Nat.lt_or_ge b.b2 128
    · rw [decode22_temp_of_lt hlt]; dsimp only [Milli]; omega
    · rw [decode22_temp_of_ge hge h₂]; dsimp only [Milli]; omega
  refine ⟨?_, fun hlt => ?_, fun hge => ?_, hhum.1, hhum.2, htemp⟩
  · rw [decode22_hum]; push_cast; ring
  · rw [decode22_temp_of_lt hlt]; push_cast; ring
  · rw [decode22_temp_of_ge hge h₂]; push_cast; ring

/-! ### The unit (R135) -/

/-- A decoded temperature is a whole number of hundredths, so that a fifth of it is a whole number of thousandths. -/
theorem ten_dvd_decodeFrame_temp (v : Variant) (b : FrameBytes) : (10 : Int) ∣ (decodeFrame v b).2 := by
  cases v with
  | dht11 => rw [decodeFrame, decode11_eq]; dsimp only; omega
  | dht22 => rw [decodeFrame, decode22_eq]; dsimp only; split <;> omega

/-- The Fahrenheit step is exact on multiples of 5 thousandths. -/
theorem applyUnit_fahrenheit_exact {tc : Milli} (h : (5 : Int) ∣ tc) :
    (applyUnit .fahrenheit tc : ℚ) / 1000 = (tc : ℚ) / 1000 * 9 / 5 + 32 := by
  obtain ⟨n, rfl⟩ := h
  have hq : (5 * n * 9 / 5 : Int) = 9 * n := by omega
  rw [applyUnit_fahrenheit, hq]
  push_cast; ring

/-- Settles O35: the temperature published in Fahrenheit is the exact quotient, because the decoded one is a multiple
of 10 thousandths. -/
theorem unitConversionExact : Obligations.UnitConversionExact := by
  intro d c v
  refine ⟨fun hu => ?_, fun hu => ⟨applyUnit .fahrenheit v.2, ?_, ?_⟩, rfl⟩
  · show some (applyUnit d.unit v.2) = some v.2
    rw [hu]; rfl
  · show some (applyUnit d.unit v.2) = _
    rw [hu]
  · exact applyUnit_fahrenheit_exact ((by decide : (5 : Int) ∣ 10).trans (ten_dvd_decodeFrame_temp _ _))

end Sys2Proof.Machine
end

section
/-! PROOF. A query from its issue to its return (41_dht_sampler.md R120 to R138): the response sample, the run over the
waits and bit cells of a frame, what the end of the frame publishes, and the two ways in which a query returns without a
time-out. -/

namespace Sys2Proof.Machine

/-! ### The issue (R121, R122) -/

/-- The state after the issue of an admitted query. -/
def State.queryIssued (s : State) (pin : PinId) (var : Variant) (pull diag : Bool) : State :=
  s.setDht (s.dht.start pin var pull diag)

/-- A state that has the pin drivers of a query before its response sample, and what no query writes, is framed. -/
theorem queryFrame_of_started {s u : State} {pin : PinId} {var : Variant} {pull diag : Bool} (hrtc : u.rtc = s.rtc)
    (hpending : u.pending = s.pending) (hturns : u.turns = s.turns) (hbound : u.pollBound = s.pollBound)
    (hmodes : u.modes = (s.queryIssued pin var pull diag).queryStarted.modes)
    (hpulls : u.pulls = (s.queryIssued pin var pull diag).queryStarted.pulls) : s.queryFrame u pin pull := by
  refine ⟨hrtc, hpending, hturns, hbound, fun q => ?_, fun q => ?_⟩
  · rw [State.mode, hmodes]; exact queryStarted_mode (s.queryIssued pin var pull diag) q
  · rw [State.pull, hpulls]; exact queryStarted_pull (s.queryIssued pin var pull diag) q

theorem ite_bitOperand {α : Type} (n : Nat) (a b : α) : (if bitOperand n then a else b) = if n = 1 then a else b :=
  if_congr beq_iff_eq rfl rfl

theorem bitOperand_toNat {n : Nat} (h : n < 2) : (bitOperand n).toNat = n := by
  obtain rfl | rfl : n = 0 ∨ n = 1 := by omega
  · rfl
  · rfl

/-! ### The response sample (R124) -/

/-- The query after its response sample. -/
def State.querySampled (s : State) : State := s.queryStarted.sample .dht s.dht.qPin

/-- The events of a query up to its response sample. -/
theorem querySampled_hist {s : State} {v : Level} (hl : s.oracle.dropClock.level 0 = v) :
    s.querySampled.hist = s.hist ++ entriesOf .dht (startEvents s.dht.qPin s.dht.qPull s.nextClock v) := by
  rw [State.querySampled, sample_hist, show s.queryStarted.nextLevel = v from hl]
  simp [State.queryStarted, State.startingQuery, entriesOf, startEvents]

/-- The query at its first wait. -/
def State.queryResponded (s : State) : State :=
  s.querySampled.setDht { s.queryStarted.dht.setResponded with upc := .presenceLow 0 }

section
variable {s : State} (ht : s.turns = []) (hb : s.dht.busy = true) (hu : s.dht.upc = .readStart)
include ht hb hu

/-- The response sample answers 1, so the query returns. -/
theorem steps_noResponse (hl : s.oracle.dropClock.level 0 = true) :
    steps (6 + s.dht.qDiag.toNat) s = .next (s.querySampled.dhtFinished .noResponse none) := by
  have hsample : step s.queryStarted = .next (s.querySampled.dhtFinish .noResponse none) :=
    (step_dht (s := s.queryStarted) ht hb).trans (congrArg _ (if_pos hl))
  rw [show 6 + s.dht.qDiag.toNat = 5 + (s.dht.qDiag.toNat + 1) by omega, steps_add 5 _ (steps_queryStart ht hb hu),
    steps_succ _ hsample]
  exact steps_dhtFinish (s := s.querySampled) ht hb .noResponse none

/-- The response sample answers 0, so the query goes on to its first wait. -/
theorem steps_response (hl : s.oracle.dropClock.level 0 = false) : steps 6 s = .next s.queryResponded := by
  have hsample : step s.queryStarted = .next s.queryResponded :=
    (step_dht (s := s.queryStarted) ht hb).trans (congrArg _ (if_neg (ne_true_of_eq_false hl)))
  rw [steps_add 5 1 (steps_queryStart ht hb hu), steps_succ 0 hsample]
  rfl

end

/-- What the finish of a query records. -/
theorem dhtFinished_hist (s : State) (status : Status) (elapsed : Option Clock) :
    (s.dhtFinished status elapsed).hist = s.hist ++
      entriesOf .dht (if s.dht.qDiag then [.emit (s.dht.diagRecord status elapsed)] else []) ++
      [.done .dht (.reading (s.dht.reading status))] := rfl

/-- The history of a query without a response. -/
theorem noResponse_hist {s : State} (hl : s.oracle.dropClock.level 0 = true) :
    (s.querySampled.dhtFinished .noResponse none).hist = s.hist ++
      entriesOf .dht (startEvents s.dht.qPin s.dht.qPull s.nextClock true ++
        if s.dht.qDiag then [.emit (s.dht.diagRecord .noResponse none)] else []) ++
      [.done .dht (.reading (s.dht.reading .noResponse))] := by
  rw [dhtFinished_hist, querySampled_hist hl]
  simp only [entriesOf, List.map_append, List.append_assoc]
  rfl

/-- Settles O25: five events, the response sample, and the finish. -/
theorem queryWithoutResponse : Obligations.QueryWithoutResponse := by
  intro s pin var pull diag ⟨hb, _, ht⟩ ho hv hp hd hl
  have hsteps := steps_noResponse (s := s.queryIssued pin (variantOperand var) (bitOperand pull) (bitOperand diag))
    ht rfl rfl hl
  rw [show (s.queryIssued pin _ _ (bitOperand diag)).dht.qDiag.toNat = diag from bitOperand_toNat hd] at hsteps
  rw [← bitOperand_eq pull, ← ite_bitOperand diag]
  exact ⟨_, _, dhtQuery_admitted hb ho hv hp hd, hsteps, rfl, rfl, rfl, rfl, rfl, rfl, rfl, rfl, noResponse_hist hl,
    queryFrame_of_started rfl rfl rfl rfl rfl rfl⟩

/-! ### Where a running query stands -/

/-- Where a running query stands: its label, and how much of the frame it holds. -/
structure QueryPoint where
  label : DhtLabel
  frame : Frame
  bitcnt : Nat

/-- A query of pin `pin` under the bound `bound` runs undisturbed and stands at `p`. -/
structure State.QueryAt (s : State) (pin : PinId) (bound : Option Nat) (p : QueryPoint) : Prop where
  turns : s.turns = []
  busy : s.dht.busy = true
  qPin : s.dht.qPin = pin
  pollBound : s.pollBound = bound
  upc : s.dht.upc = p.label
  frame : s.dht.frame = p.frame
  bitcnt : s.dht.bitcnt = p.bitcnt

/-- The query at `p` after the answers `as` and the events `evs`. -/
def State.queryRan (s : State) (as : List Level) (evs : List (Event PinId)) (p : QueryPoint) : State :=
  { s with
    dht := { s.dht with frame := p.frame, bitcnt := p.bitcnt, upc := p.label },
    oracle := s.oracle.dropLevels as.length, hist := s.hist ++ entriesOf .dht evs }

theorem queryRan_queryRan (s : State) (as as' : List Level) (evs evs' : List (Event PinId)) (p q : QueryPoint) :
    (s.queryRan as evs p).queryRan as' evs' q = s.queryRan (as ++ as') (evs ++ evs') q := by
  simp only [State.queryRan, dropLevels_dropLevels, List.length_append, entriesOf, List.map_append, List.append_assoc]

/-- The answers left after those of a stretch. -/
theorem queryRan_levels {s : State} {as rest : List Level} (h : s.oracle.levels = as ++ rest)
    (evs : List (Event PinId)) (p : QueryPoint) : (s.queryRan as evs p).oracle.levels = rest := by
  show s.oracle.levels.drop as.length = rest
  rw [h, List.drop_left]

/-! ### The lengths of waits and bit cells -/

@[simp] theorem waitAnswers_length (v : Level) (n : Nat) : (waitAnswers v n).length = n + 1 := by simp [waitAnswers]

@[simp] theorem waitEvents_length (pin : PinId) (v : Level) (n : Nat) : (waitEvents pin v n).length = n + 1 := by
  simp [waitEvents, samplesOf]

theorem cellAnswers_length (v : Level) (a b : Nat) : (cellAnswers v a b).length = a + b + 3 := by
  simp [cellAnswers]; omega

theorem cellEvents_length (pin : PinId) (v : Level) (a b : Nat) : (cellEvents pin v a b).length = a + b + 4 := by
  simp [cellEvents]; omega

/-! ### Stretches -/

section
variable {pin : PinId} {bound : Option Nat}

theorem State.QueryAt.queryRan {s : State} {p : QueryPoint} (h : s.QueryAt pin bound p) (as : List Level)
    (evs : List (Event PinId)) (q : QueryPoint) : (s.queryRan as evs q).QueryAt pin bound q :=
  ⟨h.turns, h.busy, h.qPin, h.pollBound, rfl, rfl, rfl⟩

variable (pin bound) in
/-- A stretch of a query from `p` to `q`: when the oracle answers `as` next, the query records `evs`, one event a step
(R111), and writes nothing but its point. -/
def QueryRuns (p : QueryPoint) (as : List Level) (evs : List (Event PinId)) (q : QueryPoint) : Prop :=
  ∀ s : State, s.QueryAt pin bound p → ∀ rest, s.oracle.levels = as ++ rest →
    steps evs.length s = .next (s.queryRan as evs q)

/-- Two stretches, one after the other. -/
theorem QueryRuns.trans {p q r : QueryPoint} {as as' : List Level} {evs evs' : List (Event PinId)}
    (h : QueryRuns pin bound p as evs q) (h' : QueryRuns pin bound q as' evs' r) :
    QueryRuns pin bound p (as ++ as') (evs ++ evs') r := by
  intro s hs rest hl
  rw [List.append_assoc] at hl
  rw [List.length_append, steps_add _ _ (h s hs _ hl), h' _ (hs.queryRan ..) rest (queryRan_levels hl ..),
    queryRan_queryRan]

/-- A wait whose answers end before the bound (R108). -/
theorem queryRuns_wait {label : Nat → DhtLabel} {v : Level} {next : DhtLabel} (hw : WaitAt label v next) {n : Nat}
    (hn : ∀ b, bound = some b → n = 0 ∨ n < b) (f : Frame) (c : Nat) :
    QueryRuns pin bound ⟨label 0, f, c⟩ (waitAnswers v n) (waitEvents pin v n) ⟨next, f, c⟩ := by
  rintro s ⟨ht, hb, rfl, rfl, hu, rfl, rfl⟩ rest hl
  obtain ⟨hwaited, hother⟩ := coming_waitAnswers hl
  have hend := waitEnds s label v next n hw hb ht hu hwaited hother hn
  rwa [State.queryRan, waitAnswers_length, waitEvents_length]

/-- The delay before a bit's sample (R126). -/
theorem queryRuns_bitDelay (k : Nat) (f : Frame) (c : Nat) :
    QueryRuns pin bound ⟨.bitDelay k, f, c⟩ [] [.delayUs 28] ⟨.bitSample k, f, c⟩ := by
  rintro s ⟨ht, hb, -, -, hu, rfl, rfl⟩ rest -
  have hstep : step s = .next ((s.delayUs .dht 28).dhtGoto (.bitSample k)) := by
    rw [step_dht ht hb, dhtMicroStep, hu]; rfl
  rw [State.queryRan, List.length_nil, dropLevels_zero]
  exact steps_succ 0 hstep

/-- The label after `k` bits. -/
def cellLabel (k : Nat) : DhtLabel := if k < 40 then .bitHigh k 0 else .readEnd

/-- A bit's sample (R126). -/
theorem queryRuns_bitSample (k : Nat) (f : Frame) (c : Nat) (v : Level) :
    QueryRuns pin bound ⟨.bitSample k, f, c⟩ [v] [.sample pin v]
      ⟨cellLabel (k + 1), setFrameBit f k v, k + 1⟩ := by
  rintro s ⟨ht, hb, rfl, -, hu, rfl, -⟩ rest hl
  have hv : s.nextLevel = v := by rw [State.nextLevel, Oracle.level, hl]; rfl
  have hstep : step s = .next (s.dhtSampleBit k) := by rw [step_dht ht hb, dhtMicroStep, hu]
  refine (steps_succ 0 hstep).trans ?_
  rw [State.dhtSampleBit, State.sample, hv]
  rfl

/-- A bit cell: its two waits, the delay and the sample (R126). -/
theorem queryRuns_cell (k : Nat) (f : Frame) (c : Nat) (v : Level) {a b : Nat}
    (ha : ∀ m, bound = some m → a = 0 ∨ a < m) (hb : ∀ m, bound = some m → b = 0 ∨ b < m) :
    QueryRuns pin bound ⟨.bitHigh k 0, f, c⟩ (cellAnswers v a b) (cellEvents pin v a b)
      ⟨cellLabel (k + 1), setFrameBit f k v, k + 1⟩ := by
  have hhigh : WaitAt (.bitHigh k) true (.bitLow k 0) := .inr (.inr (.inl ⟨k, rfl, rfl, rfl⟩))
  have hlow : WaitAt (.bitLow k) false (.bitDelay k) := .inr (.inr (.inr ⟨k, rfl, rfl, rfl⟩))
  have hwaits := (queryRuns_wait (pin := pin) hhigh ha f c).trans (queryRuns_wait hlow hb f c)
  have hbit := (queryRuns_bitDelay (pin := pin) (bound := bound) k f c).trans (queryRuns_bitSample k f c v)
  exact hwaits.trans hbit

end

/-! ### The frame (R125, R126) -/

/-- The first `m` bits of a frame, the others 0. -/
def lowBits (f : Frame) (m : Nat) : Frame := (f.setWidth m).setWidth 40

theorem lowBits_zero (f : Frame) : lowBits f 0 = 0#40 := by
  rw [lowBits, BitVec.eq_nil (f.setWidth 0)]; rfl

theorem lowBits_all (f : Frame) : lowBits f 40 = f := by rw [lowBits, BitVec.setWidth_eq, BitVec.setWidth_eq]

theorem setFrameBit_lowBits (f : Frame) (m : Nat) :
    setFrameBit (lowBits f m) m (f.getLsbD m) = lowBits f (m + 1) := by
  refine BitVec.eq_of_getLsbD_eq fun j hj => ?_
  rw [setFrameBit_getLsbD _ _ _ hj]
  simp only [lowBits, BitVec.getLsbD_setWidth, decide_eq_true hj, Bool.true_and]
  split
  · next h => subst h; simp
  · next h => rw [decide_eq_decide.2 (by omega : j < m ↔ j < m + 1)]

/-- The answers after the response sample, up to `m` bits of the frame `f` (R125, R126). -/
def bodyAnswers (f : Frame) (w : Nat → Nat) (m : Nat) : List Level :=
  waitAnswers false (w 0) ++ waitAnswers true (w 1) ++
    (List.range m).flatMap fun k => cellAnswers (f.getLsbD k) (w (2 * k + 2)) (w (2 * k + 3))

/-- The events of that part of a query. -/
def bodyEvents (pin : PinId) (f : Frame) (w : Nat → Nat) (m : Nat) : List (Event PinId) :=
  waitEvents pin false (w 0) ++ waitEvents pin true (w 1) ++
    (List.range m).flatMap fun k => cellEvents pin (f.getLsbD k) (w (2 * k + 2)) (w (2 * k + 3))

theorem frameAnswers_eq (f : Frame) (w : Nat → Nat) : frameAnswers f w = false :: bodyAnswers f w 40 := by
  simp [frameAnswers, bodyAnswers]

theorem frameEvents_eq (pin : PinId) (pull : Bool) (t₀ t₁ : Clock) (f : Frame) (w : Nat → Nat) :
    frameEvents pin pull t₀ t₁ f w = startEvents pin pull t₀ false ++ bodyEvents pin f w 40 ++ [.now t₁] := by
  simp [frameEvents, bodyEvents]

theorem bodyAnswers_zero (f : Frame) (w : Nat → Nat) :
    bodyAnswers f w 0 = waitAnswers false (w 0) ++ waitAnswers true (w 1) := List.append_nil _

theorem bodyEvents_zero (pin : PinId) (f : Frame) (w : Nat → Nat) :
    bodyEvents pin f w 0 = waitEvents pin false (w 0) ++ waitEvents pin true (w 1) := List.append_nil _

theorem bodyAnswers_succ (f : Frame) (w : Nat → Nat) (m : Nat) : bodyAnswers f w (m + 1) =
    bodyAnswers f w m ++ cellAnswers (f.getLsbD m) (w (2 * m + 2)) (w (2 * m + 3)) := by
  simp [bodyAnswers, List.range_succ]

theorem bodyEvents_succ (pin : PinId) (f : Frame) (w : Nat → Nat) (m : Nat) : bodyEvents pin f w (m + 1) =
    bodyEvents pin f w m ++ cellEvents pin (f.getLsbD m) (w (2 * m + 2)) (w (2 * m + 3)) := by
  simp [bodyEvents, List.range_succ]

theorem waited_two (w : Nat → Nat) : waited w 2 = w 0 + w 1 := by simp [waited, List.range_succ]

theorem waited_succ (w : Nat → Nat) (n : Nat) : waited w (n + 1) = waited w n + w n := by
  simp [waited, List.range_succ]

/-- The waits of `m` bit cells and of one more. -/
theorem waited_cell (w : Nat → Nat) (m : Nat) :
    waited w (2 * (m + 1) + 2) = waited w (2 * m + 2) + w (2 * m + 2) + w (2 * m + 3) := by
  rw [show 2 * (m + 1) + 2 = 2 * m + 3 + 1 by ring, waited_succ w (2 * m + 3), waited_succ w (2 * m + 2)]

/-- Each wait draws one answer more than it waits, each bit one more. -/
theorem bodyAnswers_length (f : Frame) (w : Nat → Nat) (m : Nat) :
    (bodyAnswers f w m).length = 2 + 3 * m + waited w (2 * m + 2) := by
  induction m with
  | zero =>
    rw [bodyAnswers_zero, List.length_append, waitAnswers_length, waitAnswers_length, Nat.mul_zero, waited_two]
    omega
  | succ m ih =>
    rw [bodyAnswers_succ, List.length_append, ih, cellAnswers_length, waited_cell]
    omega

/-- Each bit has its delay besides the events that draw an answer. -/
theorem bodyEvents_length (pin : PinId) (f : Frame) (w : Nat → Nat) (m : Nat) :
    (bodyEvents pin f w m).length = 2 + 4 * m + waited w (2 * m + 2) := by
  induction m with
  | zero =>
    rw [bodyEvents_zero, List.length_append, waitEvents_length, waitEvents_length, Nat.mul_zero, waited_two]
    omega
  | succ m ih =>
    rw [bodyEvents_succ, List.length_append, ih, cellEvents_length, waited_cell]
    omega

/-- The query after `m` bits of the frame `f`. -/
def bitsPoint (f : Frame) (m : Nat) : QueryPoint := ⟨cellLabel m, lowBits f m, m⟩

theorem bitsPoint_zero (f : Frame) : bitsPoint f 0 = ⟨.bitHigh 0 0, 0#40, 0⟩ := by
  rw [bitsPoint, lowBits_zero]; rfl

theorem bitsPoint_all (f : Frame) : bitsPoint f 40 = ⟨.readEnd, f, 40⟩ := by rw [bitsPoint, lowBits_all]; rfl

/-- The two presence waits and the first `m` bit cells: `FRAME` holds the `m` bits sent. -/
theorem queryRuns_body {pin : PinId} {bound : Option Nat} (f : Frame) {w : Nat → Nat}
    (hw : ∀ b, bound = some b → ∀ j, j < 82 → w j = 0 ∨ w j < b) {m : Nat} (hm : m ≤ 40) :
    QueryRuns pin bound ⟨.presenceLow 0, 0#40, 0⟩ (bodyAnswers f w m) (bodyEvents pin f w m) (bitsPoint f m) := by
  have hbound (j : Nat) (hj : j < 82) (b : Nat) (h : bound = some b) : w j = 0 ∨ w j < b := hw b h j hj
  induction m with
  | zero =>
    rw [bodyAnswers_zero, bodyEvents_zero, bitsPoint_zero]
    have hlow : WaitAt .presenceLow false (.presenceHigh 0) := .inl ⟨rfl, rfl, rfl⟩
    have hhigh : WaitAt .presenceHigh true (.bitHigh 0 0) := .inr (.inl ⟨rfl, rfl, rfl⟩)
    exact (queryRuns_wait hlow (hbound 0 (by omega)) 0#40 0).trans
      (queryRuns_wait hhigh (hbound 1 (by omega)) 0#40 0)
  | succ m ih =>
    have hlabel : cellLabel m = .bitHigh m 0 := if_pos hm
    have hcell := queryRuns_cell (pin := pin) m (lowBits f m) m (f.getLsbD m) (hbound (2 * m + 2) (by omega))
      (hbound (2 * m + 3) (by omega))
    rw [setFrameBit_lowBits, ← hlabel] at hcell
    rw [bodyAnswers_succ, bodyEvents_succ]
    exact (ih (by omega)).trans hcell

/-! ### The end of the frame (R127 to R138) -/

/-- The query after its second `Now`, its results published. -/
def State.queryPublished (s : State) : State := (s.now .dht).setDht (s.dht.publish s.nextClock)

/-- The state in which a query of a full frame has returned. -/
def State.queryEnded (s : State) : State :=
  s.queryPublished.dhtFinished (frameStatus (checksumOk (pack s.dht.frame))) (some (s.nextClock - s.dht.t0))

theorem steps_readEnd {s : State} (ht : s.turns = []) (hb : s.dht.busy = true) (hu : s.dht.upc = .readEnd) :
    steps (1 + s.dht.qDiag.toNat) s = .next s.queryEnded := by
  have hstep : step s = .next s.dhtReadEnd := by rw [step_dht ht hb, dhtMicroStep, hu]
  rw [Nat.add_comm, steps_succ _ hstep]
  exact steps_dhtFinish (s := s.queryPublished) ht hb _ _

/-- The query before its second `Now`, the frame `f` having been sent. -/
def State.querySent (s : State) (f : Frame) (w : Nat → Nat) : State :=
  s.queryResponded.queryRan (bodyAnswers f w 40) (bodyEvents s.dht.qPin f w 40) ⟨.readEnd, f, 40⟩

section
variable {s : State} {f : Frame} {w : Nat → Nat} {rest : List Level}
  (hl : s.oracle.levels = frameAnswers f w ++ rest)
include hl

theorem queryResponded_levels : s.queryResponded.oracle.levels = bodyAnswers f w 40 ++ rest := by
  show s.oracle.levels.drop 1 = _
  rw [hl, frameAnswers_eq]; rfl

theorem level_of_frameAnswers : s.oracle.dropClock.level 0 = false := by
  simp [Oracle.level, Oracle.dropClock, hl, frameAnswers]

/-- A query of a full frame, from its first event to its return. -/
theorem steps_fullFrame (ht : s.turns = []) (hb : s.dht.busy = true) (hu : s.dht.upc = .readStart)
    (hf : s.dht.frame = 0#40) (hn : s.dht.bitcnt = 0)
    (hw : ∀ b, s.pollBound = some b → ∀ j, j < 82 → w j = 0 ∨ w j < b) :
    steps (169 + waited w 82 + s.dht.qDiag.toNat) s = .next (s.querySent f w).queryEnded := by
  have hlength : (bodyEvents s.dht.qPin f w 40).length = 162 + waited w 82 := bodyEvents_length ..
  have hbody := queryRuns_body (pin := s.dht.qPin) f hw le_rfl
  rw [bitsPoint_all] at hbody
  rw [show 169 + waited w 82 + s.dht.qDiag.toNat =
      6 + ((bodyEvents s.dht.qPin f w 40).length + (1 + s.dht.qDiag.toNat)) by omega,
    steps_add 6 _ (steps_response ht hb hu (level_of_frameAnswers hl)),
    steps_add _ _ (hbody s.queryResponded ⟨ht, hb, rfl, rfl, rfl, hf, hn⟩ rest (queryResponded_levels hl))]
  exact steps_readEnd (s := s.querySent f w) ht hb rfl

/-- The history before the second `Now`. -/
theorem querySent_hist : (s.querySent f w).hist = s.hist ++
    entriesOf .dht (startEvents s.dht.qPin s.dht.qPull s.nextClock false ++ bodyEvents s.dht.qPin f w 40) := by
  show s.querySampled.hist ++ _ = _
  rw [querySampled_hist (level_of_frameAnswers hl), entriesOf, entriesOf, entriesOf, List.map_append, List.append_assoc]

end

/-- The answers drawn before the second `Now`. -/
theorem querySent_oracle (s : State) (f : Frame) (w : Nat → Nat) :
    (s.querySent f w).oracle = s.oracle.dropClock.dropLevels (123 + waited w 82) := by
  have hresponded : s.queryResponded.oracle = s.oracle.dropClock.dropLevels 1 := rfl
  have hlength : (bodyAnswers f w 40).length = 122 + waited w 82 := bodyAnswers_length ..
  rw [State.querySent, State.queryRan, hresponded, dropLevels_dropLevels, hlength, ← Nat.add_assoc]

/-- What a query of a full frame records. -/
theorem queryEnded_hist (s : State) : s.queryEnded.hist = s.hist ++
    entriesOf .dht (.now s.nextClock ::
      if s.dht.qDiag then [.emit (s.queryPublished.dht.diagRecord (frameStatus (checksumOk (pack s.dht.frame)))
        (some (s.nextClock - s.dht.t0)))] else []) ++
    [.done .dht (.reading (s.queryPublished.dht.reading (frameStatus (checksumOk (pack s.dht.frame)))))] := by
  rw [State.queryEnded, dhtFinished_hist]
  simp only [State.queryPublished, setDht_hist, now_hist, entriesOf, List.map_cons, List.append_assoc, List.cons_append,
    List.nil_append]
  rfl

/-- The history of a query of a full frame. -/
theorem fullFrame_hist {s : State} {f : Frame} {w : Nat → Nat} {rest : List Level} {t₁ : Clock}
    (hl : s.oracle.levels = frameAnswers f w ++ rest) (ht₁ : (s.querySent f w).nextClock = t₁) :
    (s.querySent f w).queryEnded.hist = s.hist ++
      entriesOf .dht (frameEvents s.dht.qPin s.dht.qPull s.nextClock t₁ f w ++
        if s.dht.qDiag then [.emit ((s.querySent f w).queryPublished.dht.diagRecord (frameStatus (checksumOk (pack f)))
          (some (t₁ - s.nextClock)))] else []) ++
      [.done .dht (.reading ((s.querySent f w).queryPublished.dht.reading (frameStatus (checksumOk (pack f)))))] := by
  rw [queryEnded_hist, querySent_hist hl, frameEvents_eq, ht₁]
  simp only [entriesOf, List.map_append, List.map_cons, List.append_assoc, List.cons_append, List.nil_append]
  rfl

/-- Settles O26: the response, the 82 waits and 40 bits, and the end of the frame. -/
theorem queryOfFullFrame : Obligations.QueryOfFullFrame := by
  intro s pin var pull diag f w rest ⟨hb, _, ht⟩ ho hv hp hd hl hw
  have hissued : (s.queryIssued pin (variantOperand var) (bitOperand pull) (bitOperand diag)).oracle.levels =
      frameAnswers f w ++ rest := hl
  have hsteps := steps_fullFrame hissued ht rfl rfl rfl rfl hw
  rw [show (s.queryIssued pin _ _ (bitOperand diag)).dht.qDiag.toNat = diag from bitOperand_toNat hd] at hsteps
  have hlevels := queryRan_levels (queryResponded_levels hissued) (bodyEvents pin f w 40) ⟨.readEnd, f, 40⟩
  have ht₁ := congrArg Oracle.clock
    (querySent_oracle (s.queryIssued pin (variantOperand var) (bitOperand pull) (bitOperand diag)) f w)
  dsimp only
  rw [← bitOperand_eq pull, ← ite_bitOperand diag, ← checksumOk_eq, ← variantOperand_eq]
  exact ⟨_, _, dhtQuery_admitted hb ho hv hp hd, hsteps, rfl, rfl, rfl, rfl, rfl, rfl, rfl, rfl, rfl, ht₁, hlevels,
    fullFrame_hist hissued ht₁, queryFrame_of_started rfl rfl rfl rfl rfl rfl⟩

end Sys2Proof.Machine
end

section
/-! PROOF. BCD and the clamp (42_rtc_transactions.md R168 to R170) in plain arithmetic. -/

namespace Sys2Proof.Machine

/-- The high nibble counts tens, the low one units. -/
theorem bcd2dec_eq (b : Byte) : bcd2dec b = b.toNat / 16 * 10 + b.toNat % 16 := by
  have h : b.toNat / 16 % 16 = b.toNat / 16 := Nat.mod_eq_of_lt (by omega)
  simp [bcd2dec, bits, h]

/-- Settles O46: the high nibble of a byte is at most 15. -/
theorem bcdDecode : Obligations.BcdDecode := by
  intro b
  rw [bcd2dec_eq]
  exact ⟨rfl, by omega⟩

/-- Two decimal digits fill a byte without wrapping. -/
theorem dec2bcd_toNat {v : Nat} (hv : v ≤ 99) : (dec2bcd v).toNat = v / 10 * 16 + v % 10 := by
  rw [dec2bcd, BitVec.toNat_ofNat]
  exact Nat.mod_eq_of_lt (by omega)

/-- Settles O47: the nibbles of the encoded byte are the two digits. -/
theorem bcdEncode : Obligations.BcdEncode := by
  intro v hv
  rw [bcd2dec_eq, dec2bcd_toNat hv]
  omega

/-- Settles O48: the clamp is the rule's formula, and its bounds are those of `min` and `max`. -/
theorem clampRule : Obligations.ClampRule := by
  intro lo hi n h
  refine ⟨rfl, le_max_right .., max_le (min_le_right ..) h, fun hl hh => ?_, Nat.max_zero _⟩
  rw [clamp, min_eq_left hh, max_eq_left hl]

end Sys2Proof.Machine
end

section
/-! PROOF. The micro-programs that host operations load are made of reads, port events and guarded writes
(42_rtc_transactions.md R167, 70_reset_and_hazards.md R273). -/

namespace Sys2Proof.Machine

/-! ### Guarded programs -/

/-- Guarded programs one after the other are a guarded program. -/
theorem guardedProgram_append {p q : List (RtcMicro PinId)} (hp : guardedProgram p = true)
    (hq : guardedProgram q = true) : guardedProgram (p ++ q) = true := by
  induction p using guardedProgram.induct with
  | case1 => exact hq
  | case2 cmd rest ih => exact ih hp
  | case3 ev rest ih => exact ih hp
  | case4 c b w src m rest ih =>
    simp only [guardedProgram, List.cons_append, Bool.and_eq_true] at hp ⊢
    exact ⟨hp.1, ih hp.2⟩
  | case5 c src rest hrest => simp [guardedProgram] at hp

/-- A program whose last step is the relock ends relocked, whatever stands before. -/
theorem relocks_concat (p : List (RtcMicro PinId)) {m : RtcMicro PinId} (hm : m.isRelock = true) :
    relocks (p ++ [m]) = true := by
  have hw : m.isWrite = true := by
    cases m with
    | txnWrite => rfl
    | txnRead | prim => cases hm
  rw [relocks, List.filter_append, List.filter_cons_of_pos hw, List.filter_nil, List.getLast?_concat]
  exact hm

/-- A program that writes by guarded triples only ends relocked. -/
theorem relocks_of_guardedProgram {p : List (RtcMicro PinId)} (h : guardedProgram p = true) : relocks p = true := by
  induction p using guardedProgram.induct with
  | case1 => rfl
  | case2 cmd rest ih => exact ih h
  | case3 ev rest ih => exact ih h
  | case4 c b w src m rest ih =>
    simp only [guardedProgram, Bool.and_eq_true] at h
    obtain ⟨⟨-, hm⟩, hrest⟩ := h
    exact relocks_append (relocks_concat [_, _] hm) (ih hrest)
  | case5 c src rest hrest => simp [guardedProgram] at h

/-- A guarded write of a register other than `WP`. -/
theorem guardedProgram_guardedWrite {w : Byte} (hw : w ≠ 0x8E#8) (v : ByteSource) :
    guardedProgram (guardedWrite w v) = true := by
  have hne : (w != 0x8E#8) = true := bne_iff_ne.2 hw
  simp only [guardedWrite, guardedProgram, hne]
  rfl

theorem fieldCommand_ne_wp (f : Field) : f.command ≠ 0x8E#8 := by cases f <;> decide

theorem setField_guarded (f : Field) (v : Nat) : guardedProgram (setField f v) = true :=
  guardedProgram_guardedWrite (fieldCommand_ne_wp f) _

theorem ramWriteCommand_ne_wp {idx : Nat} (h : idx ≤ 30) : ramWriteCommand idx ≠ 0x8E#8 := by
  interval_cases idx <;> decide

/-! ### What a host operation loads -/

variable {s t : State} {i : Instr}

/-- A refused operation loads nothing, so an operation loads a guarded program when it does so unrefused. -/
theorem guardedProgram_of_admission {reason : Option OpRefusal} {accepted : State}
    (hs : guardedProgram s.rtc.upc = true) (hx : exec i s = .next (s.admission reason accepted))
    (ha : reason = none → guardedProgram accepted.rtc.upc = true) (h : exec i s = .next t) :
    guardedProgram t.rtc.upc = true := by
  obtain rfl : s.admission reason accepted = t := Host.Outcome.next.inj (hx.symm.trans h)
  cases reason with
  | none => exact ha rfl
  | some r => exact hs

/-- An operation of the RTC engine other than `rtc.bind`. -/
theorem guardedProgram_of_rtcOperation {operands : Option OpRefusal} {prog : List (RtcMicro PinId)} {ret : RtcReturn}
    (hs : guardedProgram s.rtc.upc = true) (hx : exec i s = rtcOperation operands prog ret s)
    (hp : operands = none → guardedProgram prog = true) (h : exec i s = .next t) :
    guardedProgram t.rtc.upc = true :=
  guardedProgram_of_admission hs hx (fun hn => hp (Option.or_eq_none_iff.1 hn).1) h

theorem returnResult_rtc (s : State) (reg : Option Milli) : (s.returnResult reg).rtc = s.rtc := by
  cases reg <;> rfl

/-- After a host operation the RTC engine holds a guarded program, if it did before. -/
theorem exec_guardedProgram (hi : isHostOp i = true) (hs : guardedProgram s.rtc.upc = true) (h : exec i s = .next t) :
    guardedProgram t.rtc.upc = true := by
  cases i with
  | dhtQuery | dhtUnit | dhtRdcs | dhtRdsr =>
    refine guardedProgram_of_admission hs rfl (fun _ => ?_) h
    exact hs
  | dhtRdh | dhtRdt => exact guardedProgram_of_admission hs rfl (fun _ => by rwa [returnResult_rtc]) h
  | rtcBind => exact guardedProgram_of_admission hs rfl (fun _ => rfl) h
  | rtcGetsec | rtcGetmin | rtcGethour | rtcGetday | rtcGetmonth | rtcGetwday | rtcGetyear | rtcRdram | rtcStart
  | rtcPause => exact guardedProgram_of_rtcOperation hs rfl (fun _ => rfl) h
  | rtcSetsec v | rtcSetmin v | rtcSethour v | rtcSetday v | rtcSetmonth v | rtcSetwday v | rtcSetyear v =>
    exact guardedProgram_of_rtcOperation hs rfl (fun _ => setField_guarded _ v) h
  | rtcSetdt y mo dd wd hh mi ss =>
    refine guardedProgram_of_rtcOperation hs rfl (fun _ => ?_) h
    exact guardedProgram_append (setField_guarded _ y) <| guardedProgram_append (setField_guarded _ mo) <|
      guardedProgram_append (setField_guarded _ dd) <| guardedProgram_append (setField_guarded _ wd) <|
      guardedProgram_append (setField_guarded _ hh) <| guardedProgram_append (setField_guarded _ mi) <|
      setField_guarded _ ss
  | rtcWrram idx d =>
    refine guardedProgram_of_rtcOperation hs rfl (fun hn => guardedProgram_guardedWrite (ramWriteCommand_ne_wp ?_) _) h
    exact checkRamIndex_eq_none.1 (Option.or_eq_none_iff.1 hn).2
  | ds1302WriteSec | ds1302WriteMin | ds1302WriteHour | ds1302WriteDate | ds1302WriteMonth | ds1302WriteWday
  | ds1302WriteYear | ds1302WriteWp | ds1302WriteRam | ds1302ReadSec | ds1302ReadMin | ds1302ReadHour
  | ds1302ReadDate | ds1302ReadMonth | ds1302ReadWday | ds1302ReadYear | ds1302ReadWp | ds1302ReadRam => cases hi

/-- Settles O18: the loaded program is guarded, and a guarded program ends relocked. -/
theorem hostProgramsRelock : Obligations.HostProgramsRelock := by
  intro i s t hi _ hu h
  have hg : guardedProgram t.rtc.upc = true := exec_guardedProgram hi (hu ▸ rfl) h
  exact ⟨hg, relocks_of_guardedProgram hg⟩

end Sys2Proof.Machine
end

section
/-! PROOF. Binding the RTC engine's pins (42_rtc_transactions.md R161). -/

namespace Sys2Proof.Machine

/-- The state after `rtc.bind` was issued on an idle engine. -/
def State.bindIssued (s : State) (clk dio ce : PinId) : State :=
  s.setRtc { s.rtc.launch [.prim (.drive ce false), .prim (.drive clk false)] .nothing with
    clkPin := some clk, dioPin := some dio, cePin := some ce }

/-- The state after the two events of `rtc.bind`, which then returns. -/
def State.bindEnded (s : State) (clk dio ce : PinId) : State :=
  (((s.drive .rtc ce false).drive .rtc clk false).setRtc
    { s.rtc with
      clkPin := some clk, dioPin := some dio, cePin := some ce, ret := .nothing, busy := false, upc := [] }).complete
    .rtc .nothing

/-- `rtc.bind` of three distinct pins is admitted on an idle engine (R161). -/
theorem rtcBind_admitted {s : State} {clk dio ce : PinId} (hb : s.rtc.busy = false)
    (hd : clk ≠ dio ∧ clk ≠ ce ∧ dio ≠ ce) : exec (.rtcBind clk dio ce) s = .next (s.bindIssued clk dio ce) := by
  show Host.Outcome.next (s.admission ((checkPinDistinct clk dio ce).or s.checkRtcIdle) _) = _
  rw [checkPinDistinct_eq_none.2 hd, checkRtcIdle_eq_none.2 hb]
  rfl

/-- `CE` falls, then `CLK`, and the operation returns (R161, R113). -/
theorem steps_bindIssued {s : State} (ht : s.turns = []) (hd : s.dht.busy = false) (clk dio ce : PinId) :
    steps 2 (s.bindIssued clk dio ce) = .next (s.bindEnded clk dio ce) :=
  steps_prims [.drive ce false, .drive clk false] [] (List.cons_ne_nil _ _) (s.bindIssued clk dio ce) ht hd rfl rfl

/-- Settles O37: the operation is admitted, and its two events are a straight line. -/
theorem bindDrivesIdleLevels : Obligations.BindDrivesIdleLevels := by
  intro s clk dio ce ⟨hdht, hrtc, ht⟩ hcd hce hde
  refine ⟨s.bindIssued clk dio ce, s.bindEnded clk dio ce, rtcBind_admitted hrtc ⟨hcd, hce, hde⟩, rfl, rfl,
    steps_bindIssued ht hdht clk dio ce, ?_, ?_, fun q => ?_, rfl, rfl, rfl, rfl, rfl, rfl⟩
  · simp [State.bindEnded, State.complete, hrtc]
  · simp [State.bindEnded, State.complete, entriesOf]
  · show ((s.drive .rtc ce false).drive .rtc clk false).mode q = _
    rw [drive_mode, drive_mode, ite_or]
    rfl

end Sys2Proof.Machine
end

section
/-! PROOF. Each wire command of the DS1302 map runs its transaction (20_memory.md R52; 42_rtc_transactions.md R165,
R166, R173). -/

namespace Sys2Proof.Machine

section
variable {s : State} {clk dio ce : PinId} {i : Instr} {cmd : Byte}

/-- A transaction whose first event `exec` performed and whose rest was run completes. -/
theorem txnCompletes_of_ran {t : State} {prog : List (RtcMicro PinId)} {k n : Nat} {evs : List (Event PinId)}
    {sr raw : Byte} {m : PinMode} (hb : s.rtc.busy = true) (hx : exec i s = .next (s.txnOpened ce cmd prog))
    (hs : steps k (s.txnOpened ce cmd prog) = .next (t.setRtcUpc s.rtc.upc).rtcSettle)
    (hr : RtcRan clk dio ce evs n s t) (hsr : t.rtc.sr = sr) (hcnt : t.rtc.shcnt = 8) (hraw : t.rtc.raw = raw)
    (hce : t.mode ce = .out0) (hclk : t.mode clk = .out0) (hdio : t.mode dio = m) :
    s.txnCompletes clk dio ce i cmd k evs n sr raw m :=
  ⟨s.txnOpened ce cmd prog, t.setRtcUpc s.rtc.upc, hx, rfl, rfl, rfl, rfl, rfl, rfl, rfl, hs, rfl, hr.busy.trans hb,
    hr.ret, hr.hist, hr.oracle, ⟨hr.dht, hr.pulls, hr.pending, hr.turns, hr.pollBound, hr.lines⟩, hsr, hcnt, hraw, hce,
    hclk, hdio, hr.otherPins⟩

/-- A wire command that opens a read transaction completes it (R165). -/
theorem txnCompletes_of_wireRead (h : s.rtcRunning clk dio ce) (hi : exec i s = wireRead none cmd s) :
    s.txnCompletes clk dio ce i cmd 50 (readEvents clk dio ce cmd s.coming) 8 (sampledByte s.coming)
      (sampledByte s.coming) .input := by
  obtain ⟨hb, hl, hcd, hce, hde, hd, ht⟩ := h
  obtain ⟨_, t, hx, hs, rfl, hr, hsr, hcnt, hraw, mce, mclk, mdio⟩ := wireRead_steps cmd ht hd hb hl hcd hce hde
  exact txnCompletes_of_ran hb (hi.trans hx) hs hr hsr hcnt hraw mce mclk mdio

/-- A wire command that opens a write transaction completes it (R166). -/
theorem txnCompletes_of_wireWrite {v : Byte} (h : s.rtcRunning clk dio ce) (hi : exec i s = wireWrite none cmd v s) :
    s.txnCompletes clk dio ce i cmd 49 (writeEvents clk dio ce cmd v) 0 v s.rtc.raw
      (if v.getLsbD 7 then .out1 else .out0) := by
  obtain ⟨hb, hl, hcd, hce, hde, hd, ht⟩ := h
  obtain ⟨_, t, hx, hs, rfl, hr, hsr, hcnt, hraw, mce, mclk, mdio⟩ := wireWrite_steps cmd v ht hd hb hl hcd hce hde
  exact txnCompletes_of_ran hb (hi.trans hx) hs hr hsr hcnt hraw mce mclk mdio

end

/-- The read commands of the RAM bytes (R52). -/
theorem readCommand_ramWriteCommand (idx : Nat) :
    readCommand (ramWriteCommand idx) = BitVec.ofNat 8 (0xC1 + 2 * idx) := by
  rw [readCommand, ramWriteCommand, ← BitVec.ofNat_add]
  congr 1
  simp only [Config.ramCommand, BitVec.toNat_ofNat]; omega

/-- Reading a RAM byte that exists opens the transaction of its command. -/
theorem exec_ds1302ReadRam {idx : Nat} (h : idx ≤ 30) (s : State) :
    exec (.ds1302ReadRam idx) s = wireRead none (BitVec.ofNat 8 (0xC1 + 2 * idx)) s := by
  rw [← readCommand_ramWriteCommand, ← checkRamIndex_eq_none.2 h]; rfl

/-- Writing a RAM byte that exists opens the transaction of its command. -/
theorem exec_ds1302WriteRam {idx : Nat} (h : idx ≤ 30) (d : Byte) (s : State) :
    exec (.ds1302WriteRam idx d) s = wireWrite none (BitVec.ofNat 8 (0xC0 + 2 * idx)) d s := by
  rw [← checkRamIndex_eq_none.2 h]; rfl

/-- Settles O38: each read command's `exec` is the first step of its transaction. -/
theorem wireReadsComplete : Obligations.WireReadsComplete := by
  intro s clk dio ce h
  have reads {i : Instr} {cmd : Byte} := txnCompletes_of_wireRead h (i := i) (cmd := cmd)
  exact ⟨reads rfl, reads rfl, reads rfl, reads rfl, reads rfl, reads rfl, reads rfl, reads rfl,
    fun idx hidx => reads (exec_ds1302ReadRam hidx s)⟩

/-- Settles O39: each write command's `exec` is the first step of its transaction. -/
theorem wireWritesComplete : Obligations.WireWritesComplete := by
  intro s clk dio ce b h
  have writes {i : Instr} {cmd : Byte} := txnCompletes_of_wireWrite h (i := i) (cmd := cmd) (v := b)
  exact ⟨writes rfl, writes rfl, writes rfl, writes rfl, writes rfl, writes rfl, writes rfl, writes rfl,
    fun idx hidx => writes (exec_ds1302WriteRam hidx b s)⟩

end Sys2Proof.Machine
end

section
/-! PROOF. The field table's conversions (43_rtc_fields.md R190): the getters' ranges, and a value in range that is set
is read back (42_rtc_transactions.md R168 to R170, 70_reset_and_hazards.md R275). -/

namespace Sys2Proof.Machine

theorem fieldLow_le_high (f : Field) : f.low ≤ f.high := by cases f <;> decide

/-- A getter's value is in the field's range (R190). -/
theorem fromDevice_mem_range (f : Field) (n : Nat) :
    f.low + f.base ≤ f.fromDevice n ∧ f.fromDevice n ≤ f.high + f.base := by
  obtain ⟨-, hlow, hhigh, -⟩ := clampRule f.low f.high n (fieldLow_le_high f)
  exact ⟨Nat.add_le_add_right hlow _, Nat.add_le_add_right hhigh _⟩

/-- The setter's modulus takes the base, and nothing else, off a value in the field's range (R190). -/
theorem mod_modulus_of_mem_range (f : Field) {v : Nat} (hlow : f.low + f.base ≤ v) (hhigh : v ≤ f.high + f.base) :
    f.low ≤ v % f.modulus ∧ v % f.modulus ≤ f.high ∧ v % f.modulus + f.base = v := by
  cases f <;> simp only [Field.low, Field.high, Field.base, Field.modulus, Config.yearBase] at * <;> omega

/-- A value in the field's range is read back as it was set (R190). -/
theorem fromDevice_toDevice (f : Field) {v : Nat} (hlow : f.low + f.base ≤ v) (hhigh : v ≤ f.high + f.base) :
    f.fromDevice (bcd2dec (f.toDevice v)) = v := by
  obtain ⟨hlow', hhigh', hv⟩ := mod_modulus_of_mem_range f hlow hhigh
  have hdigits : v % f.modulus ≤ 99 := hhigh'.trans (by cases f <;> decide)
  obtain ⟨-, -, -, hbcd⟩ := bcdEncode _ hdigits
  obtain ⟨-, -, -, hclamp, -⟩ := clampRule f.low f.high (v % f.modulus) (fieldLow_le_high f)
  rw [Field.toDevice, Field.fromDevice, hbcd, hclamp hlow' hhigh', hv]

/-- A field whose range begins at 0 is only bounded above (R190). -/
theorem fromDevice_of_low_eq_zero {f : Field} (hlow : f.low = 0) (n : Nat) :
    f.fromDevice n = min n f.high + f.base := by
  rw [Field.fromDevice, hlow, clamp, Nat.max_zero]

/-- Settles O49: the bounds and the round trip of the field table, and the table's month 13. -/
theorem fieldRangesAndRoundTrip : Obligations.FieldRangesAndRoundTrip := by
  refine ⟨fun b => ?_,
    fun v h => ⟨fromDevice_toDevice .second (Nat.zero_le v) h, fromDevice_toDevice .minute (Nat.zero_le v) h⟩,
    fun v => fromDevice_toDevice .hour (Nat.zero_le v), fun _ => fromDevice_toDevice .day,
    fun _ => fromDevice_toDevice .month, fun _ => fromDevice_toDevice .weekday, fun _ => fromDevice_toDevice .year,
    rfl, rfl⟩
  have range (f : Field) := fromDevice_mem_range f (bcd2dec b)
  exact ⟨(range .second).2, (range .minute).2, (range .hour).2, range .day, range .month, range .weekday, range .year⟩

end Sys2Proof.Machine
end

section
/-! PROOF. The RTC operations run from their issue to their return (43_rtc_fields.md R190 to R209): a read transaction,
guarded writes one after the other, and a read whose byte is written back. -/

namespace Sys2Proof.Machine

/-! ### The commands of the map (20_memory.md R52) -/

theorem fieldCommand_isWriteCommand (f : Field) : isWriteCommand f.command = true := by cases f <;> decide

theorem fieldCommand_isReadCommand (f : Field) : isReadCommand (readCommand f.command) = true := by cases f <;> decide

theorem ramWriteCommand_isWriteCommand {idx : Nat} (h : idx ≤ 30) : isWriteCommand (ramWriteCommand idx) = true := by
  interval_cases idx <;> decide

theorem ramWriteCommand_isReadCommand {idx : Nat} (h : idx ≤ 30) :
    isReadCommand (readCommand (ramWriteCommand idx)) = true := by
  interval_cases idx <;> decide

/-! ### What the micro-programs do, issued on an engine that runs undisturbed -/

section
variable {s : State} {clk dio ce : PinId} {i : Instr} {operands : Option OpRefusal}

/-- An operation without a reason to be refused loads its micro-program (R112). -/
theorem exec_eq_launch_of_rtcAlone {prog : List (RtcMicro PinId)} {ret : RtcReturn} (h : s.rtcAlone clk dio ce)
    (ho : operands = none) (hx : exec i s = rtcOperation operands prog ret s) :
    exec i s = .next (s.setRtc (s.rtc.launch prog ret)) := by
  subst ho
  exact hx.trans (rtcOperation_admitted h.1 prog ret)

/-- An operation that is one read transaction returns what `ret` makes of the sampled byte (R165, R113). -/
theorem rtcCompletes_of_memRead {w : Byte} {ret : RtcReturn} (h : s.rtcAlone clk dio ce)
    (hw : isReadCommand (readCommand w) = true) (ho : operands = none)
    (hx : exec i s = rtcOperation operands (memRead w) ret s) :
    s.rtcCompletes clk dio ce i 51 (readEvents clk dio ce (readCommand w) s.coming) 8
      (ret.result (sampledByte s.coming)) (sampledByte s.coming) (sampledByte s.coming) .input := by
  have hissued := exec_eq_launch_of_rtcAlone h ho hx
  obtain ⟨⟨-, hl, hcd, hce, hde⟩, hd, ht⟩ := h
  obtain ⟨u, hs, hr, hsr, hcnt, hraw, mce, mclk, mdio⟩ :=
    steps_txnRead (s := s.setRtc (s.rtc.launch (memRead w) ret)) (rest := []) ht hd rfl hl hcd hce hde hw rfl
  exact rtcCompletes_of_ran hissued hs hr hsr hcnt hraw mce mclk mdio

/-- An operation that is a list of guarded writes and a last one (R167, R113). -/
theorem rtcCompletes_of_guardedWrites {ws : List (Byte × Byte)} {last : Byte × Byte} (h : s.rtcAlone clk dio ce)
    (hws : ∀ w ∈ ws, isWriteCommand w.1 = true) (hlast : isWriteCommand last.1 = true) (ho : operands = none)
    (hx : exec i s = rtcOperation operands
      (ws.flatMap (fun w => guardedWrite w.1 (.imm w.2)) ++ guardedWrite last.1 (.imm last.2)) .nothing s) :
    s.rtcCompletes clk dio ce i (150 * (ws.length + 1))
      (ws.flatMap (fun w => guardedEvents clk dio ce w.1 w.2) ++ guardedEvents clk dio ce last.1 last.2) 0 .nothing
      0x80#8 s.rtc.raw .out1 := by
  have hissued := exec_eq_launch_of_rtcAlone h ho hx
  obtain ⟨⟨-, hl, hcd, hce, hde⟩, hd, ht⟩ := h
  obtain ⟨u, hs, hr, hsr, hcnt, hraw, mce, mclk, mdio⟩ :=
    steps_guardedWrites (s := s.setRtc (s.rtc.launch _ .nothing)) ht hd rfl hl hcd hce hde ws last [] hws hlast rfl
  exact rtcCompletes_of_ran hissued hs hr hsr hcnt hraw mce mclk mdio

/-- An operation that reads a register and writes back, guarded, what `src` makes of the byte (R165, R167, R113). -/
theorem rtcCompletes_of_readThenWrite {w : Byte} {src : ByteSource} (h : s.rtcAlone clk dio ce)
    (hr : isReadCommand (readCommand w) = true) (hw : isWriteCommand w = true)
    (hx : exec i s = rtcOperation none (memRead w ++ guardedWrite w src) .nothing s) :
    s.rtcCompletes clk dio ce i 201
      (readEvents clk dio ce (readCommand w) s.coming ++
        guardedEvents clk dio ce w (src.value (sampledByte s.coming)))
      8 .nothing 0x80#8 (sampledByte s.coming) .out1 := by
  have hissued := exec_eq_launch_of_rtcAlone h rfl hx
  obtain ⟨⟨-, hl, hcd, hce, hde⟩, hd, ht⟩ := h
  obtain ⟨t, hst, hrt, -, -, hraw, -⟩ :=
    steps_txnRead (s := s.setRtc (s.rtc.launch (memRead w ++ guardedWrite w src) .nothing))
      (rest := guardedWrite w src) ht hd rfl hl hcd hce hde hr rfl
  rw [rtcSettle_of_ne (by simp [guardedWrite])] at hst
  obtain ⟨u, hsu, hru, hsr, hcnt, hraw', mce, mclk, mdio⟩ :=
    steps_guardedWrite (s := t.setRtcUpc (guardedWrite w src)) (rest := []) (hrt.turns.trans ht)
      ((congrArg DhtEngine.busy hrt.dht).trans hd) hrt.busy (hrt.lines.trans hl) hcd hce hde hw
      (List.append_nil _).symm
  have hsteps := (steps_add 51 150 hst).trans hsu
  have hran := hrt.trans (hru.setRtcUpc t.rtc.upc u.rtc.upc)
  rw [show (t.setRtcUpc (guardedWrite w src)).rtc.raw = sampledByte s.coming from hraw] at hran hraw'
  exact rtcCompletes_of_ran hissued hsteps hran hsr hcnt hraw' mce mclk mdio

/-- A field's getter returns the decoded and clamped value of the byte it samples (R190 to R197). -/
theorem rtcCompletes_of_getField (f : Field) {value : Nat} (h : s.rtcAlone clk dio ce)
    (hx : exec i s = rtcOperation none (memRead f.command) (.field f) s)
    (hv : f.fromDevice ((sampledByte s.coming).toNat / 16 * 10 + (sampledByte s.coming).toNat % 16) = value) :
    s.rtcCompletes clk dio ce i 51 (readEvents clk dio ce (readCommand f.command) s.coming) 8 (.number value)
      (sampledByte s.coming) (sampledByte s.coming) .input := by
  have hres : RtcReturn.result (.field f) (sampledByte s.coming) = .number value := by
    rw [RtcReturn.result, bcd2dec_eq, hv]
  exact hres ▸ rtcCompletes_of_memRead h (fieldCommand_isReadCommand f) rfl hx

/-- A field's setter is one guarded write of the byte that the field table gives (R190, R198 to R204). -/
theorem rtcCompletes_of_setField (f : Field) {v : Nat} (h : s.rtcAlone clk dio ce) (hv : v < 2 ^ 32)
    (hx : exec i s = rtcOperation (checkOperand (isFieldValue v)) (setField f v) .nothing s) :
    s.rtcCompletes clk dio ce i 150 (guardedEvents clk dio ce f.command (f.toDevice v)) 0 .nothing 0x80#8 s.rtc.raw
      .out1 :=
  rtcCompletes_of_guardedWrites (ws := []) (last := (f.command, f.toDevice v)) h (List.forall_mem_nil _)
    (fieldCommand_isWriteCommand f) (checkFieldValue_eq_none.2 hv) hx

end

/-! ### The operations -/

/-- Settles O41: each getter is the read of its field, and the bounds from 0 are minima. -/
theorem gettersReturnField : Obligations.GettersReturnField := by
  intro s clk dio ce h
  have gets (f : Field) {i : Instr} {value : Nat} := rtcCompletes_of_getField f (i := i) (value := value) h
  dsimp only
  exact ⟨gets .second rfl (fromDevice_of_low_eq_zero rfl _), gets .minute rfl (fromDevice_of_low_eq_zero rfl _),
    gets .hour rfl (fromDevice_of_low_eq_zero rfl _), gets .day rfl rfl, gets .month rfl rfl, gets .weekday rfl rfl,
    gets .year rfl (fromDevice_of_low_eq_zero rfl _)⟩

/-- Settles O42: each setter is the guarded write of its field. -/
theorem settersStoreField : Obligations.SettersStoreField := by
  intro s clk dio ce v h hv
  have sets (f : Field) {i : Instr} := rtcCompletes_of_setField (i := i) f h hv
  exact ⟨sets .second rfl, sets .minute rfl, sets .hour rfl, sets .day rfl, sets .month rfl, sets .weekday rfl,
    sets .year rfl⟩

/-- The six fields that `rtc.setdt` writes before the second, in the rule's order (R205), with their operands. -/
def setdtLeading (y mo dd wd hh mi : Nat) : List (Field × Nat) :=
  [(.year, y), (.month, mo), (.day, dd), (.weekday, wd), (.hour, hh), (.minute, mi)]

/-- Settles O43: the seven operands are field values, and the micro-program is seven guarded writes of fields. -/
theorem setDateTimeWrites : Obligations.SetDateTimeWrites := by
  intro s clk dio ce y mo dd wd hh mi ss h hy hmo hdd hwd hhh hmi hss
  have hops : checkOperand (isFieldValue y && isFieldValue mo && isFieldValue dd && isFieldValue wd &&
      isFieldValue hh && isFieldValue mi && isFieldValue ss) = none :=
    checkOperand_eq_none.2 (by
      simp only [isFieldValue_eq, hy, hmo, hdd, hwd, hhh, hmi, hss, decide_true, Bool.and_self])
  have hrun := rtcCompletes_of_guardedWrites (i := .rtcSetdt y mo dd wd hh mi ss)
    (ws := (setdtLeading y mo dd wd hh mi).map fun p => (p.1.command, p.1.toDevice p.2))
    (last := (Field.second.command, Field.second.toDevice ss)) h
    (List.forall_mem_map.2 fun p _ => fieldCommand_isWriteCommand p.1) (fieldCommand_isWriteCommand .second) hops rfl
  simp only [setdtLeading, List.map_cons, List.map_nil, List.flatMap_cons, List.flatMap_nil, List.append_nil,
    List.append_assoc] at hrun ⊢
  exact hrun

/-- Settles O44: both read the seconds and write them back; they differ in what is made of the byte. -/
theorem startAndPauseToggleHalt : Obligations.StartAndPauseToggleHalt := by
  intro s clk dio ce h
  have toggles {i : Instr} (src : ByteSource) := rtcCompletes_of_readThenWrite (i := i) (src := src) h
    (fieldCommand_isReadCommand .second) (fieldCommand_isWriteCommand .second)
  exact ⟨toggles (.rawAnd _) rfl, toggles (.rawOr _) rfl⟩

/-- Settles O45: `rtc.rdram` is one read, `rtc.wrram` one guarded write, at the commands of the index. -/
theorem ramIsRaw : Obligations.RamIsRaw := by
  intro s clk dio ce idx b h hidx hb
  have hram : checkRamIndex idx = none := checkRamIndex_eq_none.2 hidx
  dsimp only
  rw [← readCommand_ramWriteCommand]
  exact ⟨rtcCompletes_of_memRead (ret := .byte) h (ramWriteCommand_isReadCommand hidx) hram rfl,
    rtcCompletes_of_guardedWrites (ws := []) (last := (ramWriteCommand idx, BitVec.ofNat 8 b)) h
      (List.forall_mem_nil _) (ramWriteCommand_isWriteCommand hidx)
      (Option.or_eq_none_iff.2 ⟨checkByteValue_eq_none.2 hb, hram⟩) rfl⟩

end Sys2Proof.Machine
end

section
/-! PROOF. The marks of the history (60_exceptions.md R235 to R237): a mark stays through every step; a host operation
is refused for the first reason of R236's table, and what it records otherwise is its completion or the fault of reading
an empty register. -/

namespace Sys2Proof.Machine

/-! ### The marks -/

section
variable {s t : State}

/-- A mark is that some entry has a property; entries of which none has it leave the mark. -/
theorem hist_any_of_append {p : Entry PinId → Bool} {new : List (Entry PinId)} (ht : t.hist = s.hist ++ new)
    (hn : new.any p = false) : t.hist.any p = s.hist.any p := by
  rw [ht, List.any_append, hn, Bool.or_false]

theorem log_hist_any {p : Entry PinId → Bool} {e : Entry PinId} (he : p e = false) :
    (s.log e).hist.any p = s.hist.any p := by
  rw [log_hist, List.any_append, List.any_cons, he]
  exact Bool.or_false _

/-- A step only appends to the history (R110), so a mark stays. -/
theorem hist_any_of_step {p : Entry PinId → Bool} (h : step s = .next t) (hs : s.hist.any p = true) :
    t.hist.any p = true := by
  obtain ⟨new, ht, -⟩ := stepNeverReadsHistory s t [] h
  rw [ht, List.any_append, hs, Bool.true_or]

end

/-! ### The table of R236 as a chain of checks -/

theorem checkOperand_eq (legal : Bool) : checkOperand legal = if legal = false then some .operand else none := by
  cases legal <;> rfl

theorem checkRamIndex_eq (idx : Nat) :
    checkRamIndex idx = if decide (idx ≤ 30) = false then some .ramIndex else none := by
  rw [checkRamIndex, isRamIndex_eq]
  cases decide (idx ≤ 30) <;> rfl

theorem checkBound_eq (s : State) : s.checkBound =
    if s.rtc.clkPin = none ∨ s.rtc.dioPin = none ∨ s.rtc.cePin = none then some .unbound else none := by
  unfold State.checkBound RtcEngine.lines
  cases s.rtc.clkPin <;> cases s.rtc.dioPin <;> cases s.rtc.cePin <;> rfl

theorem checkPinDistinct_eq (clk dio ce : PinId) : checkPinDistinct clk dio ce =
    if decide (clk = dio ∨ clk = ce ∨ dio = ce) = true then some .pinDistinct else none := by
  simp only [checkPinDistinct, pinsDistinct, decide_eq_true_eq, ← not_or, ite_not]

theorem checkPinShared_eq (s : State) (p : PinId) : s.checkPinShared p =
    if decide (s.rtc.clkPin = some p ∨ s.rtc.dioPin = some p ∨ s.rtc.cePin = some p) = true then some .pinShared
    else none := by
  simp only [State.checkPinShared, RtcEngine.owns, Bool.or_eq_true, beq_iff_eq, decide_eq_true_eq, or_assoc]

/-- A table read as a chain: its first row, or else the others. -/
theorem ite_some_eq_or (r : OpRefusal) {p : Prop} [Decidable p] (rest : Option OpRefusal) :
    (if p then some r else rest) = (if p then some r else none).or rest := by
  split <;> rfl

/-- The table's reason is the first that a check gives, the checks being made in the table's order (R237). -/
theorem refusalOf_eq_or (i : Instr) (s : State) : refusalOf i s =
    (checkOperand (operandsLegal i)).or
      ((if ramIndexLegal i = false then some .ramIndex else none).or
        ((if needsBinding i = true then s.checkBound else none).or
          ((if bindsEqualPins i = true then some .pinDistinct else none).or
            ((if queriesBoundPin i s.rtc = true then some .pinShared else none).or
              (if isDhtOp i = true then s.checkDhtIdle else s.checkRtcIdle))))) := by
  have hbusy : (if (if isDhtOp i then s.dht.busy else s.rtc.busy) = true then some OpRefusal.busy else none) =
      if isDhtOp i = true then s.checkDhtIdle else s.checkRtcIdle := by
    cases isDhtOp i <;> rfl
  rw [refusalOf, ite_some_eq_or .operand, ite_some_eq_or .ramIndex, ite_some_eq_or .unbound,
    ite_some_eq_or .pinDistinct, ite_some_eq_or .pinShared, hbusy, checkOperand_eq, checkBound_eq, ite_and]

/-! ### Operations whose own checks are spelled otherwise than the table's rows -/

theorem refusalOf_dhtQuery (pin : PinId) (var pull diag : Nat) (s : State) :
    refusalOf (.dhtQuery pin var pull diag) s =
      (checkOperand (isBit var && isBit pull && isBit diag)).or ((s.checkPinShared pin).or s.checkDhtIdle) := by
  rw [refusalOf_eq_or, checkPinShared_eq]
  simp only [isBit, ← Bool.decide_and, and_assoc]
  rfl

theorem refusalOf_rtcBind (clk dio ce : PinId) (s : State) :
    refusalOf (.rtcBind clk dio ce) s = (checkPinDistinct clk dio ce).or s.checkRtcIdle := by
  rw [refusalOf_eq_or, checkPinDistinct_eq]
  rfl

theorem refusalOf_rtcSetdt (y mo dd wd hh mi ss : Nat) (s : State) : refusalOf (.rtcSetdt y mo dd wd hh mi ss) s =
    (checkOperand (isFieldValue y && isFieldValue mo && isFieldValue dd && isFieldValue wd && isFieldValue hh &&
      isFieldValue mi && isFieldValue ss)).or (s.checkBound.or s.checkRtcIdle) := by
  rw [refusalOf_eq_or]
  simp only [operandsLegal, List.all_cons, List.all_nil, Bool.and_true, isFieldValue_eq, Bool.and_assoc]
  rfl

theorem refusalOf_rtcRdram (idx : Nat) (s : State) :
    refusalOf (.rtcRdram idx) s = (checkRamIndex idx).or (s.checkBound.or s.checkRtcIdle) := by
  rw [refusalOf_eq_or, checkRamIndex_eq]
  rfl

theorem refusalOf_rtcWrram (idx d : Nat) (s : State) : refusalOf (.rtcWrram idx d) s =
    ((checkOperand (isByteValue d)).or (checkRamIndex idx)).or (s.checkBound.or s.checkRtcIdle) := by
  rw [refusalOf_eq_or, checkRamIndex_eq, isByteValue_eq, Option.or_assoc]
  rfl

/-! ### What an admitted operation records -/

/-- The operation reads a result register that holds no value (R235). -/
def ReadsUnset (i : Instr) (s : State) : Prop :=
  (i = .dhtRdh ∧ s.dht.hum = none) ∨ (i = .dhtRdt ∧ s.dht.temp = none)

/-- What the history of `u` tells of the operation `i` that was admitted in `s`: it goes on, completed, or faulted. -/
inductive Admitted (s : State) (i : Instr) (u : State) : Prop where
  | goesOn (h : u.hist = s.hist)
  | completed (e : Engine) (r : Result) (h : u.hist = s.hist ++ [.done e r])
  | faulted (hr : ReadsUnset i s) (h : u.hist = s.hist ++ [.faulted .readUnset])

theorem Admitted.returnResult {s : State} {i : Instr} {reg : Option Milli} (hr : reg = none → ReadsUnset i s) :
    Admitted s i (s.returnResult reg) := by
  cases reg with
  | none => exact .faulted (hr rfl) rfl
  | some m => exact .completed .dht (.value m) rfl

/-- A host operation goes through its admission, and that is by the table. -/
def ByTheTable (i : Instr) (s : State) : Prop :=
  ∃ u, exec i s = .next (s.admission (refusalOf i s) u) ∧ Admitted s i u

theorem ByTheTable.of_admission {i : Instr} {s u : State} {reason : Option OpRefusal}
    (hx : exec i s = .next (s.admission reason u)) (hr : refusalOf i s = reason) (ha : Admitted s i u) :
    ByTheTable i s := ⟨u, hr ▸ hx, ha⟩

/-- Every host operation does: its own checks give the table's reason. -/
theorem byTheTable {i : Instr} (hi : isHostOp i = true) (s : State) : ByTheTable i s := by
  cases i with
  | dhtQuery => exact .of_admission rfl (refusalOf_dhtQuery ..) (.goesOn rfl)
  | dhtUnit => exact .of_admission rfl (refusalOf_eq_or ..) (.completed .dht .nothing rfl)
  | dhtRdh => exact .of_admission rfl (refusalOf_eq_or ..) (.returnResult fun h => .inl ⟨rfl, h⟩)
  | dhtRdt => exact .of_admission rfl (refusalOf_eq_or ..) (.returnResult fun h => .inr ⟨rfl, h⟩)
  | dhtRdcs | dhtRdsr => exact .of_admission rfl (refusalOf_eq_or ..) (.completed .dht (.flag _) rfl)
  | rtcBind => exact .of_admission rfl (refusalOf_rtcBind ..) (.goesOn rfl)
  | rtcGetsec | rtcGetmin | rtcGethour | rtcGetday | rtcGetmonth | rtcGetwday | rtcGetyear | rtcSetsec | rtcSetmin
  | rtcSethour | rtcSetday | rtcSetmonth | rtcSetwday | rtcSetyear | rtcStart | rtcPause =>
    exact .of_admission rfl (refusalOf_eq_or ..) (.goesOn rfl)
  | rtcSetdt => exact .of_admission rfl (refusalOf_rtcSetdt ..) (.goesOn rfl)
  | rtcRdram => exact .of_admission rfl (refusalOf_rtcRdram ..) (.goesOn rfl)
  | rtcWrram => exact .of_admission rfl (refusalOf_rtcWrram ..) (.goesOn rfl)
  | ds1302WriteSec | ds1302WriteMin | ds1302WriteHour | ds1302WriteDate | ds1302WriteMonth | ds1302WriteWday
  | ds1302WriteYear | ds1302WriteWp | ds1302WriteRam | ds1302ReadSec | ds1302ReadMin | ds1302ReadHour
  | ds1302ReadDate | ds1302ReadMonth | ds1302ReadWday | ds1302ReadYear | ds1302ReadWp | ds1302ReadRam => cases hi

theorem Admitted.refusalMarked {s u : State} {i : Instr} (h : Admitted s i u) : u.refusalMarked = s.refusalMarked := by
  cases h with
  | goesOn h => rw [State.refusalMarked, h, State.refusalMarked]
  | completed e r h => exact hist_any_of_append h rfl
  | faulted hr h => exact hist_any_of_append h rfl

/-- Settles O19: an operation goes through its admission, which is by the table. -/
theorem refusalsByTheTable : Obligations.RefusalsByTheTable := by
  refine ⟨fun i s hi => ?_, fun s t h hs => hist_any_of_step h hs⟩
  obtain ⟨u, hx, hu⟩ := byTheTable hi s
  refine ⟨fun r hr => ?_, fun hn => ⟨u, ?_, hu.refusalMarked⟩⟩
  · rw [hx, hr]; rfl
  · rw [hx, hn]; rfl

/-! ### Who records a fault (R235) -/

section
variable {s t : State} {i : Instr}

theorem OneEvent.faultMarked {e : Engine} {busy : Bool} (h : OneEvent e s busy t) : t.faultMarked = s.faultMarked := by
  obtain ⟨ev, ⟨-, ht⟩ | ⟨-, r, ht⟩⟩ := h
  · exact hist_any_of_append ht rfl
  · exact hist_any_of_append ht rfl

theorem stepDht_faultMarked (h : stepDht s = .next t) : t.faultMarked = s.faultMarked := by
  cases hb : s.dht.busy with
  | false => rw [stepDht_of_idle hb] at h; cases h; rfl
  | true => rw [stepDht_of_busy hb] at h; cases h; exact (dhtMicroStep_oneEvent hb).faultMarked

/-- A wire command records a refusal or the first event of its transaction. -/
theorem ExecCase.faultMarked_of_wire (hx : ExecCase s i t) (hi : isHostOp i = false) :
    t.faultMarked = s.faultMarked := by
  cases hx with
  | logged _ hh | launch _ hh => exact nomatch hi.symm.trans hh
  | query | unit | bind => exact nomatch hi
  | refuseTxn r => exact log_hist_any (s := s.setRtc _) rfl
  | openTxn clk dio ce => exact hist_any_of_append (new := [.port .rtc (.drive ce true)]) rfl rfl

theorem stepRtc_faultMarked (h : stepRtc exec s = .next t) : t.faultMarked = s.faultMarked := by
  cases hb : s.rtc.busy with
  | false => rw [stepRtc_of_idle hb] at h; cases h; rfl
  | true =>
    rw [stepRtc, if_pos hb] at h
    obtain ⟨m, rest, -, ⟨i, hi, hx⟩ | ⟨p, -, rfl⟩⟩ := rtcMicroStep_cases h
    · exact hx.faultMarked_of_wire hi
    · obtain ⟨-, -, -, -, -, hbusy, -⟩ := rtcPerform_frame p (s.setRtcUpc rest)
      obtain ⟨ev, hev⟩ := rtcPerform_hist p (s.setRtcUpc rest)
      exact (rtcSettle_oneEvent (hbusy.trans hb) hev).faultMarked

theorem resetEvent_faultMarked (s : State) : s.resetEvent.faultMarked = s.faultMarked :=
  log_hist_any (s := (((s.setDht (.reset s.dht.qPin)).setRtc .reset).setModes []).setPulls []) rfl

theorem Admitted.readsUnset (h : Admitted s i t) (hs : s.faultMarked = false) (ht : t.faultMarked = true) :
    ReadsUnset i s := by
  have unmarked (he : t.faultMarked = s.faultMarked) : False := by simp [he, hs] at ht
  cases h with
  | goesOn h => exact (unmarked (by rw [State.faultMarked, h, State.faultMarked])).elim
  | completed e r h => exact (unmarked (hist_any_of_append h rfl)).elim
  | faulted hr => exact hr

/-- The reads of the result registers have no check but that the engine is idle. -/
theorem ReadsUnset.idle (h : ReadsUnset i s) (hn : refusalOf i s = none) : s.dht.busy = false := by
  rw [refusalOf_eq_or] at hn
  obtain ⟨rfl, -⟩ | ⟨rfl, -⟩ := h
  · exact checkDhtIdle_eq_none.1 hn
  · exact checkDhtIdle_eq_none.1 hn

theorem exec_first_fault (hi : isHostOp i = true) (h : exec i s = .next t) (hs : s.faultMarked = false)
    (ht : t.faultMarked = true) : s.dht.busy = false ∧ ReadsUnset i s := by
  obtain ⟨u, hx, hu⟩ := byTheTable hi s
  obtain rfl := Host.Outcome.next.inj (hx.symm.trans h)
  cases hr : refusalOf i s with
  | none =>
    rw [hr, admit_none] at ht
    have hread := hu.readsUnset hs ht
    exact ⟨hread.idle hr, hread⟩
  | some r =>
    have he : (s.refuse r).faultMarked = s.faultMarked := log_hist_any rfl
    rw [hr, admit_some, he, hs] at ht
    cases ht

/-- The host's move records the first fault when its next request reads an empty register. -/
theorem stepHost_first_fault (h : stepHost exec s = .next t) (hs : s.faultMarked = false) (ht : t.faultMarked = true) :
    s.dht.busy = false ∧ ∃ r rest i, s.pending = r :: rest ∧ decode (.host r) = .ok i ∧ ReadsUnset i s := by
  have unmarked (he : t.faultMarked = s.faultMarked) : False := by simp [he, hs] at ht
  cases hp : s.pending with
  | nil => rw [stepHost_of_pending_nil hp] at h; cases h; exact (unmarked rfl).elim
  | cons r rest =>
    cases hd : decodeHost r with
    | error e =>
      rw [stepHost_of_decodeHost_error hp hd] at h; cases h
      exact (unmarked ((log_hist_any rfl).trans (log_hist_any (s := s.setPending rest) rfl))).elim
    | ok i =>
      rw [stepHost_of_decodeHost_ok hp hd] at h
      have hissue : ((s.setPending rest).log (.issue r)).faultMarked = false :=
        (log_hist_any (s := s.setPending rest) rfl).trans hs
      obtain ⟨hb, hread⟩ := exec_first_fault (isHostOp_of_decodeHost hd) h hissue ht
      exact ⟨hb, r, rest, i, rfl, hd, hread⟩

theorem mover_of_first_fault (h : step s = .next t) (hs : s.faultMarked = false) (ht : t.faultMarked = true) :
    s.mover = .host := by
  have unmarked (he : t.faultMarked = s.takeTurn.faultMarked) : False :=
    Bool.false_ne_true (hs.symm.trans (he.symm.trans ht))
  unfold step at h
  cases hm : s.mover with
  | host => rfl
  | dht => rw [hm] at h; exact (unmarked (stepDht_faultMarked h)).elim
  | rtc => rw [hm] at h; exact (unmarked (stepRtc_faultMarked h)).elim
  | reset => rw [hm] at h; cases h; exact (unmarked (resetEvent_faultMarked _)).elim

theorem goodFinal_of_faultMarked (h : s.faultMarked = true) : s.goodFinal = false := by
  rw [State.goodFinal, h]; rfl

end

/-- Settles O21: the reads fault as O22 says; of all moves only the host's admission of such a read records a fault. -/
theorem readUnsetIsTheOnlyFault : Obligations.ReadUnsetIsTheOnlyFault := by
  refine ⟨fun s hb => ?_, fun s t h hs ht => ?_, fun s t h hs => ?_⟩
  · obtain ⟨-, hhum, -, htemp, -⟩ := resultReadsReturn.2 s hb
    exact ⟨hhum, htemp⟩
  · have hm := mover_of_first_fault h hs ht
    rw [step_of_mover_host hm] at h
    obtain ⟨hb, r, rest, i, hp, hd, ⟨rfl, hreg⟩ | ⟨rfl, hreg⟩⟩ := stepHost_first_fault (s := s.takeTurn) h hs ht
    · exact ⟨hm, hb, r, rest, hp, .inl ⟨hd, hreg⟩⟩
    · exact ⟨hm, hb, r, rest, hp, .inr ⟨hd, hreg⟩⟩
  · have ht : t.faultMarked = true := hist_any_of_step h hs
    exact ⟨ht, goodFinal_of_faultMarked ht⟩

end Sys2Proof.Machine
end

section
/-! PROOF. The reset (70_reset_and_hazards.md R260): the reset event replaces both engines and both pin tables, whatever
the state was, and the machine right after reset is what a first reset event leaves. -/

namespace Sys2Proof.Machine

section
variable (s : State)

@[simp] theorem resetEvent_dht : s.resetEvent.dht = .reset s.dht.qPin := rfl
@[simp] theorem resetEvent_rtc : s.resetEvent.rtc = .reset := rfl
@[simp] theorem resetEvent_mode (p : PinId) : s.resetEvent.mode p = .input := rfl
@[simp] theorem resetEvent_pull (p : PinId) : s.resetEvent.pull p = .off := rfl
@[simp] theorem resetEvent_hist : s.resetEvent.hist = s.hist ++ [.reset] := rfl
@[simp] theorem takeTurn_hist : s.takeTurn.hist = s.hist := rfl

end

theorem step_of_mover_reset {s : State} (hm : s.mover = .reset) : step s = .next s.takeTurn.resetEvent := by
  rw [step, hm, moveOf]

/-- The machine right after reset is what the reset event leaves of one with no history (log 14). -/
theorem resetEvent_of_hist_nil : ({ State.reset with hist := [] } : State).resetEvent = State.reset := rfl

/-- Settles O9: the reset's turn is the reset event, and the state right after reset comes from one too. -/
theorem resetLeavesResetValues : Obligations.ResetLeavesResetValues := by
  refine ⟨fun s hm => ⟨s.takeTurn.resetEvent, step_of_mover_reset hm, ?_⟩, ?_⟩
  · simp [DhtEngine.reset, RtcEngine.reset]
  · rw [← resetEvent_of_hist_nil]
    simp [DhtEngine.reset, RtcEngine.reset]

/-- Settles O10: the reset event brings the invariant about in every state. -/
theorem invariantAtReset : Obligations.InvariantAtReset := by
  unfold Obligations.InvariantAtReset
  rw [← resetEvent_of_hist_nil]
  exact resetEvent_inv _

end Sys2Proof.Machine
end
